-- ==== Sys2Proof/Word.lean ====
section
/-! DEFINITION. The two word types of the codec (00_scope.md section 5, rule R8). -/

namespace Sys2Proof

/-- A byte, `0 .. 255` (00_scope.md section 5). -/
abbrev Byte := BitVec 8

/-- The 16-bit chunk tag (rule R8). -/
abbrev TagWord := BitVec 16

end Sys2Proof
end

