-- ==== Sys2Proof/Config.lean ====
section
/-! DEFINITION. The constants of the codec, and the values the spec leaves open. -/

namespace Sys2Proof.Config

/-- `LIT_CAP`: a Literal holds 1 to 16 bytes (rule R5). -/
abbrev litCap : Nat := 16

/-- `REP_CAP`: a Repeat stands for 1 to 255 bytes (rule R5). -/
abbrev repCap : Nat := 255

/-- `TAG_BITS` (rule R8). -/
abbrev tagBits : Nat := 16

/-- `CW`, the width in bits of `ENC_IDX` and `DEC_CURSOR` for the frame length `len`: `ceil(log2(len + 1))` (rule R6). -/
def cursorWidth (len : Nat) : Nat := Nat.clog 2 (len + 1)

/-- DESIGN CHOICE (log entry 1; unsafe for statements about `State.reset` alone). The frame length `State.reset` carries;
rule R4 leaves `L` open. It is the length of program P3 of 95_test_vectors.md, long enough for every chunk. -/
def resetLength : Nat := 300

/-- The XOR straps at reset: the default of rule R7, enabled (log entry 2). -/
def resetXorEn : Bool := true

/-- Free value (log entry 8; safe): the byte at an index of `FRAME` that the TX host has not written (rule R183). -/
opaque frameInitial : Nat → Byte

/-- Free value (log entry 7; safe): the byte at an index of `DST` not written since the receiving half's `epoch`-th reset
(rules R25, R182: "unspecified"). -/
opaque dstUnspecified : (epoch : Nat) → (index : Nat) → Byte

end Sys2Proof.Config
end

