-- ==== Sys2Proof/Syntax.lean ====
section
/-! DEFINITION. The instructions of the receiving half: one constructor for each row of spec/opcode_table.json, the chunks of
30_encoding.md by tag class. Operations without an encoding (rule R76) are transitions of the machine, not instructions. -/

namespace Sys2Proof

/-- A wire chunk, by its row of the tag table (rule R69). `payload` is a literal's bytes, `bytes[0]` first (rule R64); `count`
is a repeat's count (rule R65); `tag` is the offending tag of a reserved row (rule R141). -/
inductive Instr where
  /-- `END`, tag `0x0000` (rule R63). -/
  | endFrame
  | lit1 (payload : List Byte)
  | lit2 (payload : List Byte)
  | lit3 (payload : List Byte)
  | lit4 (payload : List Byte)
  | lit5 (payload : List Byte)
  | lit6 (payload : List Byte)
  | lit7 (payload : List Byte)
  | lit8 (payload : List Byte)
  | lit9 (payload : List Byte)
  | lit10 (payload : List Byte)
  | lit11 (payload : List Byte)
  | lit12 (payload : List Byte)
  | lit13 (payload : List Byte)
  | lit14 (payload : List Byte)
  | lit15 (payload : List Byte)
  | lit16 (payload : List Byte)
  | rep2To129 (count : Nat) (byte : Byte)
  | rep130To193 (count : Nat) (byte : Byte)
  | rep194To225 (count : Nat) (byte : Byte)
  | rep226To241 (count : Nat) (byte : Byte)
  | rep242To249 (count : Nat) (byte : Byte)
  | rep250To253 (count : Nat) (byte : Byte)
  | rep254To255 (count : Nat) (byte : Byte)
  | reserved0 (tag : TagWord)
  | reserved1 (tag : TagWord)
  | reserved2 (tag : TagWord)
  | reserved3 (tag : TagWord)
  | reserved4 (tag : TagWord)
  | reserved5 (tag : TagWord)
  | reserved6 (tag : TagWord)
  | reserved7 (tag : TagWord)
  | reserved8 (tag : TagWord)
  | reserved9 (tag : TagWord)
  | reserved10 (tag : TagWord)
  | reserved11 (tag : TagWord)
  | reserved12 (tag : TagWord)
  | reserved13 (tag : TagWord)
  | reserved14 (tag : TagWord)
  | reserved15 (tag : TagWord)
  | reserved16 (tag : TagWord)
  | reserved17 (tag : TagWord)
  | reserved18 (tag : TagWord)
  | reserved19 (tag : TagWord)
  | reserved20 (tag : TagWord)
  | reserved21 (tag : TagWord)
  deriving DecidableEq, Repr

end Sys2Proof
end

