-- ==== Sys2Proof/WellFormed.lean ====
section
/-! DEFINITION. Which terms of `Instr` stand for a chunk of their row: the payload length, the range of the count, the range of
the reserved tag (rules R60, R69). -/

namespace Sys2Proof

/-- A literal's payload has its row's length, a repeat's count lies in its row's range, a reserved tag lies in its row's range
(rule R69 and spec/opcode_table.json). -/
def Instr.wf : Instr → Bool
  | .endFrame => true
  | .lit1 payload => payload.length == 1
  | .lit2 payload => payload.length == 2
  | .lit3 payload => payload.length == 3
  | .lit4 payload => payload.length == 4
  | .lit5 payload => payload.length == 5
  | .lit6 payload => payload.length == 6
  | .lit7 payload => payload.length == 7
  | .lit8 payload => payload.length == 8
  | .lit9 payload => payload.length == 9
  | .lit10 payload => payload.length == 10
  | .lit11 payload => payload.length == 11
  | .lit12 payload => payload.length == 12
  | .lit13 payload => payload.length == 13
  | .lit14 payload => payload.length == 14
  | .lit15 payload => payload.length == 15
  | .lit16 payload => payload.length == 16
  | .rep2To129 count _ => decide (2 ≤ count) && decide (count ≤ 129)
  | .rep130To193 count _ => decide (130 ≤ count) && decide (count ≤ 193)
  | .rep194To225 count _ => decide (194 ≤ count) && decide (count ≤ 225)
  | .rep226To241 count _ => decide (226 ≤ count) && decide (count ≤ 241)
  | .rep242To249 count _ => decide (242 ≤ count) && decide (count ≤ 249)
  | .rep250To253 count _ => decide (250 ≤ count) && decide (count ≤ 253)
  | .rep254To255 count _ => decide (254 ≤ count) && decide (count ≤ 255)
  | .reserved0 tag => decide (0x4000 ≤ tag.toNat) && decide (tag.toNat ≤ 0x7FFF)
  | .reserved1 tag => decide (0x2000 ≤ tag.toNat) && decide (tag.toNat ≤ 0x3FFF)
  | .reserved2 tag => decide (0x1000 ≤ tag.toNat) && decide (tag.toNat ≤ 0x1FFF)
  | .reserved3 tag => decide (0x0800 ≤ tag.toNat) && decide (tag.toNat ≤ 0x0FFF)
  | .reserved4 tag => decide (0x0400 ≤ tag.toNat) && decide (tag.toNat ≤ 0x07FF)
  | .reserved5 tag => decide (0x0200 ≤ tag.toNat) && decide (tag.toNat ≤ 0x03FF)
  | .reserved6 tag => decide (0x0100 ≤ tag.toNat) && decide (tag.toNat ≤ 0x01FF)
  | .reserved7 tag => decide (0x0080 ≤ tag.toNat) && decide (tag.toNat ≤ 0x00FF)
  | .reserved8 tag => decide (0x0040 ≤ tag.toNat) && decide (tag.toNat ≤ 0x007F)
  | .reserved9 tag => decide (0x0020 ≤ tag.toNat) && decide (tag.toNat ≤ 0x003F)
  | .reserved10 tag => decide (0x0018 ≤ tag.toNat) && decide (tag.toNat ≤ 0x001F)
  | .reserved11 tag => decide (0x0014 ≤ tag.toNat) && decide (tag.toNat ≤ 0x0017)
  | .reserved12 tag => decide (0x0012 ≤ tag.toNat) && decide (tag.toNat ≤ 0x0013)
  | .reserved13 tag => decide (0x0011 ≤ tag.toNat) && decide (tag.toNat ≤ 0x0011)
  | .reserved14 tag => decide (0x8000 ≤ tag.toNat) && decide (tag.toNat ≤ 0xBFFF)
  | .reserved15 tag => decide (0xC000 ≤ tag.toNat) && decide (tag.toNat ≤ 0xDFFF)
  | .reserved16 tag => decide (0xE000 ≤ tag.toNat) && decide (tag.toNat ≤ 0xEFFF)
  | .reserved17 tag => decide (0xF000 ≤ tag.toNat) && decide (tag.toNat ≤ 0xF7FF)
  | .reserved18 tag => decide (0xF800 ≤ tag.toNat) && decide (tag.toNat ≤ 0xFBFF)
  | .reserved19 tag => decide (0xFC00 ≤ tag.toNat) && decide (tag.toNat ≤ 0xFDFF)
  | .reserved20 tag => decide (0xFE00 ≤ tag.toNat) && decide (tag.toNat ≤ 0xFEFF)
  | .reserved21 tag => decide (0xFF00 ≤ tag.toNat) && decide (tag.toNat ≤ 0xFF01)

end Sys2Proof
end

