-- ==== Sys2Proof/Decode.lean ====
section
/-! DEFINITION. The wire format of 30_encoding.md: the tag codec in one place (rules R65, R66), the decoder over bytes
(rule R144), and the encoder over well-formed instructions (formats END, LIT, REP). -/

namespace Sys2Proof

/-- `tag[7:0]`, sent first (rule R66). -/
def tagLow (tag : TagWord) : Byte := tag.extractLsb' 0 8

/-- `tag[15:8]`, sent second (rule R66). -/
def tagHigh (tag : TagWord) : Byte := tag.extractLsb' 8 8

/-- The tag whose first byte is `lo` and whose second byte is `hi` (rule R66). -/
def tagOfBytes (lo hi : Byte) : TagWord := hi ++ lo

/-- `sext_16`: the tag read as a two's-complement integer (rule R66). -/
def runOfTag (tag : TagWord) : Int :=
  if tag.toNat < 32768 then (tag.toNat : Int) else (tag.toNat : Int) - 65536

/-- `run mod 65536`: the tag of a signed run (rules R66, R128). -/
def tagOfRun (run : Int) : TagWord := BitVec.ofInt Config.tagBits run

/-- The four classes of tags (rule R69). -/
inductive TagClass where
  | endMark
  /-- A literal of `len` bytes. -/
  | literal (len : Nat)
  /-- A repeat of `count` occurrences. -/
  | rep (count : Nat)
  | reserved
  deriving DecidableEq, Repr

/-- The class of a completed tag (rules R65, R69, R137). -/
def classifyTag (tag : TagWord) : TagClass :=
  let run := runOfTag tag
  if run = 0 then .endMark
  else if 1 ≤ run ∧ run ≤ (Config.litCap : Int) then .literal run.toNat
  else if 1 - (Config.repCap : Int) ≤ run ∧ run ≤ -1 then .rep (1 - run).toNat
  else .reserved

/-- How many payload bytes follow the tag (rule R68). -/
def TagClass.payloadLength : TagClass → Nat
  | .endMark => 0
  | .literal len => len
  | .rep _ => 1
  | .reserved => 0

/-- The literal instruction with this payload, by its length (rule R69); none for a length no row has. -/
def literalInstr (payload : List Byte) : Option Instr :=
  match payload.length with
  | 1 => some (.lit1 payload)
  | 2 => some (.lit2 payload)
  | 3 => some (.lit3 payload)
  | 4 => some (.lit4 payload)
  | 5 => some (.lit5 payload)
  | 6 => some (.lit6 payload)
  | 7 => some (.lit7 payload)
  | 8 => some (.lit8 payload)
  | 9 => some (.lit9 payload)
  | 10 => some (.lit10 payload)
  | 11 => some (.lit11 payload)
  | 12 => some (.lit12 payload)
  | 13 => some (.lit13 payload)
  | 14 => some (.lit14 payload)
  | 15 => some (.lit15 payload)
  | 16 => some (.lit16 payload)
  | _ => none

/-- The repeat instruction of this count, by the row whose range holds it (rule R69 and spec/opcode_table.json); none for a
count no tag gives (rule R145). -/
def repeatInstr (count : Nat) (byte : Byte) : Option Instr :=
  if count < 2 then none
  else if count ≤ 129 then some (.rep2To129 count byte)
  else if count ≤ 193 then some (.rep130To193 count byte)
  else if count ≤ 225 then some (.rep194To225 count byte)
  else if count ≤ 241 then some (.rep226To241 count byte)
  else if count ≤ 249 then some (.rep242To249 count byte)
  else if count ≤ 253 then some (.rep250To253 count byte)
  else if count ≤ 255 then some (.rep254To255 count byte)
  else none

/-- The reserved row that holds a tag which `classifyTag` calls reserved (rule R69 and spec/opcode_table.json). -/
def reservedInstr (tag : TagWord) : Instr :=
  if tag.toNat ≤ 0x0011 then .reserved13 tag
  else if tag.toNat ≤ 0x0013 then .reserved12 tag
  else if tag.toNat ≤ 0x0017 then .reserved11 tag
  else if tag.toNat ≤ 0x001F then .reserved10 tag
  else if tag.toNat ≤ 0x003F then .reserved9 tag
  else if tag.toNat ≤ 0x007F then .reserved8 tag
  else if tag.toNat ≤ 0x00FF then .reserved7 tag
  else if tag.toNat ≤ 0x01FF then .reserved6 tag
  else if tag.toNat ≤ 0x03FF then .reserved5 tag
  else if tag.toNat ≤ 0x07FF then .reserved4 tag
  else if tag.toNat ≤ 0x0FFF then .reserved3 tag
  else if tag.toNat ≤ 0x1FFF then .reserved2 tag
  else if tag.toNat ≤ 0x3FFF then .reserved1 tag
  else if tag.toNat ≤ 0x7FFF then .reserved0 tag
  else if tag.toNat ≤ 0xBFFF then .reserved14 tag
  else if tag.toNat ≤ 0xDFFF then .reserved15 tag
  else if tag.toNat ≤ 0xEFFF then .reserved16 tag
  else if tag.toNat ≤ 0xF7FF then .reserved17 tag
  else if tag.toNat ≤ 0xFBFF then .reserved18 tag
  else if tag.toNat ≤ 0xFDFF then .reserved19 tag
  else if tag.toNat ≤ 0xFEFF then .reserved20 tag
  else .reserved21 tag

/-- Why a byte sequence does not begin with a whole chunk. -/
inductive DecodeError where
  /-- Fewer than two bytes: the tag is not complete (rule R143). -/
  | tagIncomplete
  /-- The tag is complete and the payload is not (rule R143). -/
  | payloadIncomplete
  /-- No row of the table; no byte sequence is rejected so. -/
  | noSuchRow
  deriving DecidableEq, Repr

/-- What decoding the front of a byte sequence gives. -/
inductive Decoded where
  /-- An instruction and the bytes after it. -/
  | instr (i : Instr) (rest : List Byte)
  /-- Rejected, by name. -/
  | rejected (why : DecodeError)
  deriving DecidableEq, Repr

/-- The instruction and the rest, or the row that is missing. -/
def Decoded.ofRow (row : Option Instr) (rest : List Byte) : Decoded :=
  match row with
  | some i => .instr i rest
  | none => .rejected .noSuchRow

/-- The instruction at the front of a byte sequence (rule R144). A reserved tag is an instruction with no payload (rule R141). -/
def decode : List Byte → Decoded
  | lo :: hi :: rest =>
    let tag := tagOfBytes lo hi
    match classifyTag tag with
    | .endMark => .instr .endFrame rest
    | .literal len =>
      if rest.length < len then .rejected .payloadIncomplete
      else Decoded.ofRow (literalInstr (rest.take len)) (rest.drop len)
    | .rep count =>
      match rest with
      | byte :: rest' => Decoded.ofRow (repeatInstr count byte) rest'
      | [] => .rejected .payloadIncomplete
    | .reserved => .instr (reservedInstr tag) rest
  | _ => .rejected .tagIncomplete

/-- Format END (rule R126). -/
def wireEnd : List Byte := [0x00, 0x00]

/-- Format LIT: the length, a zero byte, the payload in order (rule R127). -/
def wireLiteral (payload : List Byte) : List Byte :=
  BitVec.ofNat 8 payload.length :: 0x00 :: payload

/-- Format REP, for a count of 2 to 255: the tag `1 - count`, low byte first, then the byte (rule R128). -/
def wireRepeat (count : Nat) (byte : Byte) : List Byte :=
  let tag := tagOfRun (1 - (count : Int))
  [tagLow tag, tagHigh tag, byte]

/-- A bare tag, low byte first: the whole of a reserved chunk as the receiving half reads it (rules R66, R141). -/
def wireTag (tag : TagWord) : List Byte := [tagLow tag, tagHigh tag]

/-- The wire bytes of an instruction, first byte first, from the formats of 30_encoding.md. -/
def encode : Instr → List Byte
  | .endFrame => wireEnd
  | .lit1 payload => wireLiteral payload
  | .lit2 payload => wireLiteral payload
  | .lit3 payload => wireLiteral payload
  | .lit4 payload => wireLiteral payload
  | .lit5 payload => wireLiteral payload
  | .lit6 payload => wireLiteral payload
  | .lit7 payload => wireLiteral payload
  | .lit8 payload => wireLiteral payload
  | .lit9 payload => wireLiteral payload
  | .lit10 payload => wireLiteral payload
  | .lit11 payload => wireLiteral payload
  | .lit12 payload => wireLiteral payload
  | .lit13 payload => wireLiteral payload
  | .lit14 payload => wireLiteral payload
  | .lit15 payload => wireLiteral payload
  | .lit16 payload => wireLiteral payload
  | .rep2To129 count byte => wireRepeat count byte
  | .rep130To193 count byte => wireRepeat count byte
  | .rep194To225 count byte => wireRepeat count byte
  | .rep226To241 count byte => wireRepeat count byte
  | .rep242To249 count byte => wireRepeat count byte
  | .rep250To253 count byte => wireRepeat count byte
  | .rep254To255 count byte => wireRepeat count byte
  | .reserved0 tag => wireTag tag
  | .reserved1 tag => wireTag tag
  | .reserved2 tag => wireTag tag
  | .reserved3 tag => wireTag tag
  | .reserved4 tag => wireTag tag
  | .reserved5 tag => wireTag tag
  | .reserved6 tag => wireTag tag
  | .reserved7 tag => wireTag tag
  | .reserved8 tag => wireTag tag
  | .reserved9 tag => wireTag tag
  | .reserved10 tag => wireTag tag
  | .reserved11 tag => wireTag tag
  | .reserved12 tag => wireTag tag
  | .reserved13 tag => wireTag tag
  | .reserved14 tag => wireTag tag
  | .reserved15 tag => wireTag tag
  | .reserved16 tag => wireTag tag
  | .reserved17 tag => wireTag tag
  | .reserved18 tag => wireTag tag
  | .reserved19 tag => wireTag tag
  | .reserved20 tag => wireTag tag
  | .reserved21 tag => wireTag tag

/-- The longest instruction: `LIT16`, 18 bytes (rule R68). -/
def longestInstr : Nat := 18

/-- An instruction's bits, numbered as spec/opcode_table.json numbers them, laid out as the wire carries them: the byte of bits
7 to 0 first; every bit above `nbits` is 0. -/
def tableBytes (nbits w : Nat) : List Byte :=
  (List.range longestInstr).map fun j => BitVec.ofNat 8 (w % 2 ^ nbits / 256 ^ j)

/-- What the decoder reads from an instruction whose bits are `w`, `nbits` of them given. -/
def decodeTableWord (nbits w : Nat) : Option Instr :=
  match decode (tableBytes nbits w) with
  | .instr i _ => some i
  | .rejected _ => none

end Sys2Proof
end

