-- ==== Sys2Proof/Machine/State.lean ====
section
/-! DEFINITION. The state of the system: the two halves, the channel between them, the parameters (10_state.md rules R10 to R35,
20_memory.md rule R40), and the reset values (70_reset_and_hazards.md rules R181, R182). Plain data throughout. -/

namespace Sys2Proof.Machine

/-- A chunk, as the chunk-level interface carries it. Each variant holds the proof that its operand is in range, so no other value
is a `Chunk` (rule R60). -/
inductive Chunk where
  /-- `Literal(bytes)`, 1 to 16 bytes (rule R61). -/
  | literal (bytes : List Byte) (legal : 1 ≤ bytes.length ∧ bytes.length ≤ Config.litCap := by decide)
  /-- `Repeat(byte, count)`, count 1 to 255 (rule R62). -/
  | rep (byte : Byte) (count : Nat) (legal : 1 ≤ count ∧ count ≤ Config.repCap := by decide)
  /-- `End` (rule R63). -/
  | endMark
  deriving DecidableEq, Repr

/-- A byte buffer as its listed cells, addresses strictly rising. What an unlisted index reads as is said once, by
`unlisted` of Machine/Ops.lean. -/
abbrev Memory := List Host.Cell

/-- The four address spaces (rule R40). -/
inductive Space where
  | frame
  | txb
  | dst
  | rxb
  deriving DecidableEq, Repr

/-- `ENC_MODE` (rule R13). -/
inductive EncMode where
  | idle
  | acc
  | rep
  deriving DecidableEq, Repr

/-- `DES_STATE` (rule R26). -/
inductive DesPhase where
  | tag0
  | tag1
  | lit
  | rep
  deriving DecidableEq, Repr

/-- `DEC_FAULT` (rules R23, R167); the codes are in Machine/Flags.lean. -/
inductive DecFault where
  | none
  | lengthMismatch
  | overrun
  | malformedTag
  deriving DecidableEq, Repr

/-- The events the block raises to its hosts (rule R30). -/
inductive PortEvent where
  | encDone
  | frameDone
  deriving DecidableEq, Repr

/-- One move of one agent (rule R9): the entries of the schedule (log entry 11). -/
inductive Move where
  /-- The TX host writes `FRAME[index]` (rule R186). -/
  | writeFrame (index : Nat) (byte : Byte)
  /-- The TX host raises `enc_start` (rule R81). -/
  | encStart
  /-- `rst` of the sending half (rule R180). -/
  | encReset
  /-- `rst` of the receiving half (rule R180). -/
  | decReset
  /-- A host empties the channel (rules R190, R194). -/
  | emptyChannel
  /-- The channel sets its `tx_ready` level (rules R36, R131). -/
  | setTxReady (level : Bool)
  /-- The channel sets its `rx_valid` level: whether it offers its oldest byte (rules R36, R135). -/
  | setRxValid (level : Bool)
  /-- ENC takes its next step, if it has one (rule R80). -/
  | encTurn
  /-- The channel delivers its oldest byte to DEC, if both are ready (rule R135). -/
  | decTurn
  deriving DecidableEq, Repr

/-- The parameters, fixed for a run (rules R4, R7; log entries 1, 2). The halves must agree on both (rule R191); what they do when
they disagree is modelled all the same (U12; log entry 9). -/
structure Params where
  /-- `L` of the sending half. -/
  encL : Nat
  /-- `L` of the receiving half. -/
  decL : Nat
  /-- The strap `enc_xor_en`. -/
  encXorEn : Bool
  /-- The strap `dec_xor_en`. -/
  decXorEn : Bool
  deriving DecidableEq, Repr

/-- The registers and the baseline of the sending half (rules R11 to R20). -/
structure Enc where
  /-- `TXB` (rule R20). -/
  txb : Memory
  /-- `ENC_FIRST` (rule R12). -/
  first : Bool
  /-- `ENC_MODE` (rule R13). -/
  mode : EncMode
  /-- `ENC_PREV` (rule R14). -/
  prev : Byte
  /-- `ENC_CNT` (rule R15). -/
  cnt : Nat
  /-- `ENC_LBUF` (rule R16). -/
  lbuf : Vector Byte 16
  /-- `ENC_LLEN` (rule R17). -/
  llen : Nat
  /-- `ENC_IDX` (rule R19). -/
  idx : Nat
  /-- `ENC_BUSY` (rule R18). -/
  busy : Bool
  /-- The model's own: `RLE.FLUSH` has had its pending chunk taken, and its `End` is still to be sent (rules R99, R105; log
  entry 12). -/
  ending : Bool
  deriving DecidableEq, Repr

/-- The registers of the deserializer (rules R26 to R29). -/
structure Des where
  /-- `DES_STATE` (rule R26). -/
  phase : DesPhase
  /-- `DES_TAG` (rule R27). -/
  tag : TagWord
  /-- `DES_LBUF` (rule R28). -/
  lbuf : Vector Byte 16
  /-- `DES_CNT` (rule R29). -/
  cnt : Nat
  deriving DecidableEq, Repr

/-- The registers and the buffers of the receiving half (rules R21 to R29). -/
structure Dec where
  /-- `RXB` (rule R24). -/
  rxb : Memory
  /-- `DST` (rule R25). -/
  dst : Memory
  /-- `DEC_FIRST` (rule R21). -/
  first : Bool
  /-- `DEC_CURSOR` (rule R22). -/
  cursor : Nat
  /-- `DEC_FAULT` (rule R23). -/
  fault : DecFault
  /-- `DES_STATE`, `DES_TAG`, `DES_LBUF`, `DES_CNT`. -/
  des : Des
  /-- The model's own: how many times this half has been reset. It selects the free value of an unwritten `DST` byte
  (log entry 7). -/
  epoch : Nat
  deriving DecidableEq, Repr

/-- The channel (rules R35, R54). -/
structure Chan where
  /-- The bytes in flight, oldest first. -/
  bytes : List Byte
  /-- The level `tx_ready` (rules R36, R131). -/
  txReady : Bool
  /-- The level `rx_valid`: the channel offers its oldest byte when it has one (rules R36, R135). -/
  rxValid : Bool
  deriving DecidableEq, Repr

/-- The state of the whole system (rules R9, R11, R35). -/
structure State where
  params : Params
  /-- `FRAME`, the TX host's buffer (rules R40, R50). -/
  frame : Memory
  enc : Enc
  chan : Chan
  dec : Dec
  /-- The model's own record of the events raised, oldest first (rule R30; log entry 16). -/
  events : List PortEvent
  /-- The model's own count of the starts the host has issued (rule R196; log entry 22). -/
  starts : Nat
  /-- The model's own: the moves still to be made, next first (log entry 11). -/
  schedule : List Move
  deriving DecidableEq, Repr

/-- Why the machine stops. No instruction of the table does it. -/
inductive Fault where
  /-- Raised by the host's move `writeFrame` on an index at or above `L`: the spec gives `FRAME` no such byte (rule R40).
  Safe: the machine stops (log entry 15). -/
  | noSuchFrameIndex (index : Nat)
  /-- Raised by a step of ENC in a state with `ENC_LLEN` above 15 or `ENC_CNT` above 254: the assertion `CapOverflow` of
  rules R104 and R164, which no run from reset reaches. Safe (log entry 10). -/
  | capOverflow
  /-- Raised by a step of ENC in a state with `ENC_IDX` above `L`, for which rule R84 gives no step and which no run from reset
  reaches. Safe (log entry 10). -/
  | encIndexPastEnd
  deriving DecidableEq, Repr

/-- What the model has no meaning for. -/
inductive Refusal where
  /-- An instruction with no meaning yet, raised by its arm of `exec`; no arm of this model does. Safe. -/
  | notModelled (mnemonic : String)
  /-- Raised by the host's move `writeFrame` while `ENC_BUSY = 1`: rule R187 gives the host no such move. Safe (log entry 14). -/
  | frameWriteWhileBusy
  /-- Raised by a literal's or a repeat's arm of `exec` on a term whose operands are no chunk's (rule R60): no such term is
  well formed, and no bytes decode to one. Safe (log entry 17). -/
  | noSuchChunk
  deriving DecidableEq, Repr

/-- The sixteen entries of a register array at a named reset value, all zero (DESIGN CHOICE, log entries 3 and 4; unsafe). -/
def zeroEntries : Vector Byte 16 := Vector.replicate 16 0x00

/-- The sending half right after reset (rule R181). `ENC_PREV` and `ENC_LBUF` are unspecified there: zero is the model's
(DESIGN CHOICE, log entry 3; unsafe). `TXB` is all zero: nothing listed. No flush is under way (log entry 12). -/
def Enc.reset : Enc where
  txb := []
  first := true
  mode := .idle
  prev := 0x00
  cnt := 0
  lbuf := zeroEntries
  llen := 0
  idx := 0
  busy := false
  ending := false

/-- The deserializer right after reset (rule R182). `DES_TAG` and `DES_LBUF` are unspecified there: zero is the model's
(DESIGN CHOICE, log entry 4; unsafe). -/
def Des.reset : Des where
  phase := .tag0
  tag := 0x0000
  lbuf := zeroEntries
  cnt := 0

/-- The receiving half right after its `epoch`-th reset (rule R182). `RXB` is all zero: nothing listed. `DST` is unspecified:
nothing listed, and every byte a free value (log entry 7). -/
def Dec.reset (epoch : Nat) : Dec where
  rxb := []
  dst := []
  first := true
  cursor := 0
  fault := .none
  des := Des.reset
  epoch := epoch

/-- The channel at the start: empty (rule R35), ready, and offering what it gets (DESIGN CHOICE, log entry 13; unsafe). -/
def Chan.initial : Chan where
  bytes := []
  txReady := true
  rxValid := true

/-- The system right after both halves are reset with an empty channel, for any parameters (rules R181, R182, R185). -/
def State.resetWith (params : Params) : State where
  params := params
  frame := []
  enc := Enc.reset
  chan := Chan.initial
  dec := Dec.reset 0
  events := []
  starts := 0
  schedule := []

/-- The parameters of `State.reset`: both halves agree (rule R191); `L` is the model's (DESIGN CHOICE, log entry 1), the straps
carry rule R7's default (log entry 2). -/
def Params.reset : Params where
  encL := Config.resetLength
  decL := Config.resetLength
  encXorEn := Config.resetXorEn
  decXorEn := Config.resetXorEn

/-- The machine right after reset. -/
def State.reset : State := State.resetWith Params.reset

end Sys2Proof.Machine
end

