-- ==== Sys2Proof/Machine/Deserializer.lean ====
section
/-! DEFINITION. The chunk deserializer, 45_chunk_deserializer.md: the register writes of `DES.BYTE` in its four phases, and the
instruction it completes. -/

namespace Sys2Proof.Machine

/-- Phase `TAG0`: the low tag byte (rule R136). -/
def desTag0 (d : Des) (x : Byte) : Des × Option Instr :=
  ({ d with tag := tagOfBytes x (tagHigh d.tag), phase := .tag1 }, none)

/-- Phase `TAG1`: the high tag byte completes the tag, and its class decides (rule R137). A reserved tag leaves the phase at
`TAG1` (rule R141). DESIGN CHOICE (log entry 24; unsafe for statements about it in phase `TAG0`): after `End` the register `DES_TAG`,
which may hold any value in phase `TAG0` (U8), keeps that tag. -/
def desTag1 (d : Des) (x : Byte) : Des × Option Instr :=
  let tag := tagOfBytes (tagLow d.tag) x
  match classifyTag tag with
  | .endMark => ({ d with tag := tag, phase := .tag0 }, some .endFrame)
  | .literal _ => ({ d with tag := tag, phase := .lit, cnt := 0 }, none)
  | .rep _ => ({ d with tag := tag, phase := .rep }, none)
  | .reserved => ({ d with tag := tag }, some (reservedInstr tag))

/-- The literal length in phase `LIT`: `DES_TAG[4:0]` (rule R138). -/
def desLiteralLength (d : Des) : Nat := (d.tag.extractLsb' 0 5).toNat

/-- Phase `LIT`: a payload byte; the byte that brings the count to the length completes the literal (rule R138).
DESIGN CHOICE (log entry 24; unsafe for statements about it in phase `TAG0`): `DES_TAG` then keeps the literal's tag (U8).
DESIGN CHOICE (log entry 21; unsafe for statements about such states), where the tag is no literal's, which no run reaches and
the spec leaves open: the length is `DES_TAG[4:0]` there too, and at that count the literal of as many entries as `DES_LBUF` has of
it is delivered (tag `0x0021` with count 0 gives `LIT1`, tag `0xFFFF` with count 30 gives `LIT16`); with a length of 0, or a count at
or beyond the length, none ever is. A byte at an index beyond 15 is stored nowhere. -/
def desLit (d : Des) (x : Byte) : Des × Option Instr :=
  let lbuf := d.lbuf.setIfInBounds d.cnt x
  let cnt := d.cnt + 1
  if cnt = desLiteralLength d then
    ({ d with lbuf := lbuf, phase := .tag0, cnt := 0 }, literalInstr (lbuf.toList.take cnt))
  else ({ d with lbuf := lbuf, cnt := cnt }, none)

/-- Phase `REP`: the repeat byte; the count is `1 - sext_16(DES_TAG)` (rule R139). DESIGN CHOICE (log entry 24; unsafe for statements
about it in phase `TAG0`): `DES_TAG` then keeps the repeat's tag (U8). DESIGN CHOICE (log entry 21; unsafe for statements
about such states), where the tag is no repeat's, which no run reaches and the spec leaves open: the byte is taken, the phase goes
to `TAG0`, and nothing is delivered. -/
def desRep (d : Des) (x : Byte) : Des × Option Instr :=
  ({ d with phase := .tag0 }, repeatInstr (1 - runOfTag d.tag).toNat x)

/-- `DES.BYTE(x)`: the registers after it, and the instruction it completes, if any (rule R135). -/
def desAccept (d : Des) (x : Byte) : Des × Option Instr :=
  match d.phase with
  | .tag0 => desTag0 d x
  | .tag1 => desTag1 d x
  | .lit => desLit d x
  | .rep => desRep d x

/-- The registers after a sequence of bytes none of which completes an instruction. -/
def desAcceptAll (d : Des) (xs : List Byte) : Des := xs.foldl (fun d x => (desAccept d x).1) d

end Sys2Proof.Machine
end

