-- ==== Sys2Proof/Machine/Flags.lean ====
section
/-! DEFINITION. The one-bit conditions the block computes from its flags, and the levels it shows on its ports
(10_state.md rules R30, R31, R36; 60_exceptions.md rule R167). The block has no condition codes (rule R10). -/

namespace Sys2Proof.Machine

/-- `enc_xor_active = XOR_EN AND NOT ENC_FIRST` (rule R31). -/
def encXorActive (s : State) : Bool := s.params.encXorEn && !s.enc.first

/-- `dec_xor_active = XOR_EN AND NOT DEC_FIRST` (rule R31). -/
def decXorActive (s : State) : Bool := s.params.decXorEn && !s.dec.first

/-- The code of a fault in `DEC_FAULT` (rule R167). -/
def DecFault.code : DecFault → BitVec 2
  | .none => 0
  | .lengthMismatch => 1
  | .overrun => 2
  | .malformedTag => 3

/-- The level `enc_busy` (rule R30). -/
def encBusyLevel (s : State) : Bool := s.enc.busy

/-- The level `dec_fault[1:0]` (rule R30). -/
def decFaultLevel (s : State) : BitVec 2 := s.dec.fault.code

/-- The level `rx_ready`: 0 whenever `DEC_FAULT` is not 0 (rules R36, R135, R168). -/
def rxReady (s : State) : Bool := decide (s.dec.fault = .none)

end Sys2Proof.Machine
end

