-- ==== Sys2Proof/Machine/Operands.lean ====
section
/-! DEFINITION. The operand forms: the chunk each instruction delivers, and what a chunk contributes to a frame
(30_encoding.md rules R60 to R63, R74). -/

namespace Sys2Proof.Machine

/-- `rep(b, n)` of 00_scope.md section 5. -/
def repBytes (byte : Byte) (count : Nat) : List Byte := List.replicate count byte

/-- The literal of these bytes; none where no chunk has them (rules R60, R61). -/
def Chunk.ofBytes (bytes : List Byte) : Option Chunk :=
  if h : 1 ≤ bytes.length ∧ bytes.length ≤ Config.litCap then some (.literal bytes h) else none

/-- The repeat of this byte and count; none where no chunk has them (rules R60, R62). -/
def Chunk.ofRun (byte : Byte) (count : Nat) : Option Chunk :=
  if h : 1 ≤ count ∧ count ≤ Config.repCap then some (.rep byte count h) else none

/-- `n(c)`: how many frame bytes a chunk contributes (rule R74). -/
def Chunk.size : Chunk → Nat
  | .literal bytes _ => bytes.length
  | .rep _ count _ => count
  | .endMark => 0

/-- `expand(c)`: the delta bytes a chunk stands for (rule R74). -/
def Chunk.expand : Chunk → List Byte
  | .literal bytes _ => bytes
  | .rep byte count _ => repBytes byte count
  | .endMark => []

/-- The delta bytes of a chunk sequence, in order (rule R118). -/
def expandAll (cs : List Chunk) : List Byte := cs.flatMap Chunk.expand

/-- The chunk an instruction delivers to the run-length decoder (rule R140); none for a reserved tag (rule R141), and none for an
ill-formed term whose operands are no chunk's (rule R60). DEDUCED: the instructions are the chunks on the wire (log entry 17). -/
def chunkOf : Instr → Option Chunk
  | .endFrame => some .endMark
  | .lit1 payload => Chunk.ofBytes payload
  | .lit2 payload => Chunk.ofBytes payload
  | .lit3 payload => Chunk.ofBytes payload
  | .lit4 payload => Chunk.ofBytes payload
  | .lit5 payload => Chunk.ofBytes payload
  | .lit6 payload => Chunk.ofBytes payload
  | .lit7 payload => Chunk.ofBytes payload
  | .lit8 payload => Chunk.ofBytes payload
  | .lit9 payload => Chunk.ofBytes payload
  | .lit10 payload => Chunk.ofBytes payload
  | .lit11 payload => Chunk.ofBytes payload
  | .lit12 payload => Chunk.ofBytes payload
  | .lit13 payload => Chunk.ofBytes payload
  | .lit14 payload => Chunk.ofBytes payload
  | .lit15 payload => Chunk.ofBytes payload
  | .lit16 payload => Chunk.ofBytes payload
  | .rep2To129 count byte => Chunk.ofRun byte count
  | .rep130To193 count byte => Chunk.ofRun byte count
  | .rep194To225 count byte => Chunk.ofRun byte count
  | .rep226To241 count byte => Chunk.ofRun byte count
  | .rep242To249 count byte => Chunk.ofRun byte count
  | .rep250To253 count byte => Chunk.ofRun byte count
  | .rep254To255 count byte => Chunk.ofRun byte count
  | .reserved0 _ => none
  | .reserved1 _ => none
  | .reserved2 _ => none
  | .reserved3 _ => none
  | .reserved4 _ => none
  | .reserved5 _ => none
  | .reserved6 _ => none
  | .reserved7 _ => none
  | .reserved8 _ => none
  | .reserved9 _ => none
  | .reserved10 _ => none
  | .reserved11 _ => none
  | .reserved12 _ => none
  | .reserved13 _ => none
  | .reserved14 _ => none
  | .reserved15 _ => none
  | .reserved16 _ => none
  | .reserved17 _ => none
  | .reserved18 _ => none
  | .reserved19 _ => none
  | .reserved20 _ => none
  | .reserved21 _ => none

end Sys2Proof.Machine
end

