-- ==== Sys2Proof/Machine/Ops.lean ====
section
/-! DEFINITION. The named operations over the buffers and the registers: one-byte memory access (20_memory.md), the updates of one
field, raising a fault (60_exceptions.md rules R167, R168), sending to the channel. -/

namespace Sys2Proof.Machine

/-! ## Cells -/

/-- The byte listed at an index. -/
def Memory.lookup : Memory → Nat → Option Byte
  | [], _ => none
  | (k, v) :: rest, i => if i = k then some v else Memory.lookup rest i

/-- The byte an index holds, where `u` is what an unlisted index reads as. -/
def Memory.value (u : Option Byte) (m : Memory) (i : Nat) : Option Byte :=
  match Memory.lookup m i with
  | some v => some v
  | none => u

/-- The cells with `v` at `i`, in rising order of index. -/
def Memory.insert : Memory → Nat → Byte → Memory
  | [], i, v => [(i, v)]
  | (k, u) :: rest, i, v =>
    if i < k then (i, v) :: (k, u) :: rest
    else if i = k then (i, v) :: rest
    else (k, u) :: Memory.insert rest i v

/-- The cells without the index `i`. -/
def Memory.erase (m : Memory) (i : Nat) : Memory := m.filter fun cell => decide (cell.1 ≠ i)

/-- The cells after writing `v` at `i`, where `u` is what an unlisted index reads as: writing that value removes the entry. -/
def Memory.write (u : Option Byte) (m : Memory) (i : Nat) (v : Byte) : Memory :=
  if u = some v then Memory.erase m i else Memory.insert m i v

/-- The canonical form: addresses strictly rising, and no entry equal to what an unlisted index reads as. -/
def Memory.wf (u : Option Byte) (m : Memory) : Bool :=
  decide (m.Pairwise fun a b => a.1 < b.1) && m.all fun cell => decide (u ≠ some cell.2)

/-- What an unlisted index of a space reads as: `0x00` in the baselines, whose reset contents are all zero (rule R40); no value
in `DST`, unspecified after reset (rule R25), and in `FRAME`, which is not the block's to reset (rule R183). DEDUCED (log
entry 5). -/
def unlisted : Space → Option Byte
  | .frame => none
  | .txb => some 0x00
  | .dst => none
  | .rxb => some 0x00

/-! ## The four spaces -/

/-- The cells of a space. -/
def State.cells (s : State) : Space → Memory
  | .frame => s.frame
  | .txb => s.enc.txb
  | .dst => s.dec.dst
  | .rxb => s.dec.rxb

/-- The number of bytes of a space: `L` of the half it belongs to (rule R40). -/
def State.spaceLength (s : State) : Space → Nat
  | .frame => s.params.encL
  | .txb => s.params.encL
  | .dst => s.params.decL
  | .rxb => s.params.decL

/-- Put new cells in a space. -/
def State.setCells (s : State) (sp : Space) (m : Memory) : State :=
  match sp with
  | .frame => { s with frame := m }
  | .txb => { s with enc := { s.enc with txb := m } }
  | .dst => { s with dec := { s.dec with dst := m } }
  | .rxb => { s with dec := { s.dec with rxb := m } }

/-- The free value of a byte nothing has written (log entries 7 and 8; safe). The baselines have no such byte. -/
def State.freeByte (s : State) : Space → Nat → Byte
  | .frame, i => Config.frameInitial i
  | .dst, i => Config.dstUnspecified s.dec.epoch i
  | .txb, _ => 0x00
  | .rxb, _ => 0x00

/-- The byte an index holds, when something gives it one. -/
def memValue (s : State) (sp : Space) (i : Nat) : Option Byte := Memory.value (unlisted sp) (s.cells sp) i

/-- `MemRead(S, i, 1)` (rule R44): the byte the index holds, a free value where nothing has written it. -/
def memRead (s : State) (sp : Space) (i : Nat) : Byte := (memValue s sp i).getD (s.freeByte sp i)

/-- `MemWrite(S, i, 1, v)` (rule R44). -/
def memWrite (s : State) (sp : Space) (i : Nat) (v : Byte) : State :=
  s.setCells sp (Memory.write (unlisted sp) (s.cells sp) i v)

/-! ## Updates of one field -/

/-- One more start issued (rule R196). -/
def State.countStart (s : State) : State := { s with starts := s.starts + 1 }

/-- Set the registers of the sending half. -/
def State.setEnc (s : State) (e : Enc) : State := { s with enc := e }

/-- `DEC_CURSOR <- c`. -/
def State.setCursor (s : State) (c : Nat) : State := { s with dec := { s.dec with cursor := c } }

/-- `DEC_FIRST <- b`. -/
def State.setDecFirst (s : State) (b : Bool) : State := { s with dec := { s.dec with first := b } }

/-- `DEC_FAULT <- f`. -/
def State.setFault (s : State) (f : DecFault) : State := { s with dec := { s.dec with fault := f } }

/-- Set the registers of the deserializer. -/
def State.setDes (s : State) (d : Des) : State := { s with dec := { s.dec with des := d } }

/-- Set the channel's bytes in flight. -/
def State.setBytes (s : State) (bs : List Byte) : State := { s with chan := { s.chan with bytes := bs } }

/-- Set the level `tx_ready`. -/
def State.setTxReady (s : State) (level : Bool) : State := { s with chan := { s.chan with txReady := level } }

/-- Set the level `rx_valid`. -/
def State.setRxValid (s : State) (level : Bool) : State := { s with chan := { s.chan with rxValid := level } }

/-- Set the moves still to be made. -/
def State.setSchedule (s : State) (ms : List Move) : State := { s with schedule := ms }

/-- `raise event e` (rule R30). -/
def State.raiseEvent (s : State) (e : PortEvent) : State := { s with events := s.events ++ [e] }

/-! ## Faults, sending -/

/-- `raise X`: `DEC_FAULT <- code(X)` and the step ends; everything else keeps its value (rule R167). There is no handler, no
saved state and no return but reset (rules R168, R172). -/
def raiseFault (s : State) (f : DecFault) : State := s.setFault f

/-- `send`: bytes go after every byte sent before (rules R54, R125). -/
def sendBytes (s : State) (bs : List Byte) : State := s.setBytes (s.chan.bytes ++ bs)

end Sys2Proof.Machine
end

