-- ==== Sys2Proof/Machine/Baseline.lean ====
section
/-! DEFINITION. The frame baseline register, 46_baseline_register.md: `BLR.READ`, `BLR.TXUPD`, `BLR.RXCOMMIT`, `BLR.RESET`. -/

namespace Sys2Proof.Machine

/-- `BLR.READ(S, i)` (rule R151). -/
def blrRead (s : State) (sp : Space) (i : Nat) : Byte := memRead s sp i

/-- `BLR.TXUPD(i, f)` (rule R152). -/
def blrTxUpd (s : State) (i : Nat) (f : Byte) : State := memWrite s .txb i f

/-- The first `n` copies of `BLR.RXCOMMIT`: `RXB[i] <- DST[i]` for `i = 0, 1, ..., n - 1` (rule R153). -/
def copyDstToRxb : Nat → State → State
  | 0, s => s
  | n + 1, s =>
    let s' := copyDstToRxb n s
    memWrite s' .rxb n (memRead s' .dst n)

/-- `BLR.RXCOMMIT`: all `L` bytes, as one step (rules R52, R153). -/
def blrRxCommit (s : State) : State := copyDstToRxb s.params.decL s

/-- `BLR.RESET(S)`: `0x00` at every index (rule R154). A baseline's unlisted indices read as `0x00`, so nothing is listed. -/
def blrReset (s : State) (sp : Space) : State := s.setCells sp []

end Sys2Proof.Machine
end

