-- ==== Sys2Proof/Machine/XorDecoder.lean ====
section
/-! DEFINITION. The XOR-delta decoder, 43_xor_delta_decoder.md: `XDD.BYTE`. -/

namespace Sys2Proof.Machine

/-- The raw byte of a delta byte: against the baseline byte when XOR is active, else the delta byte (rule R120). -/
def undeltaByte (active : Bool) (delta baseByte : Byte) : Byte :=
  if active then delta ^^^ baseByte else delta

/-- `XDD.BYTE(p, d)`: the operand is `RXB`, the target `DST` (rules R120, R123). -/
def xddByte (s : State) (p : Nat) (d : Byte) : State :=
  memWrite s .dst p (undeltaByte (decXorActive s) d (blrRead s .rxb p))

/-- `XDD.BYTE` of each delta byte, at increasing positions from `p` (rules R111, R112, R116). -/
def xddBytes : State → Nat → List Byte → State
  | s, _, [] => s
  | s, p, d :: ds => xddBytes (xddByte s p d) (p + 1) ds

end Sys2Proof.Machine
end

