-- ==== Sys2Proof/Machine/RunDecoder.lean ====
section
/-! DEFINITION. The run-length decoder, 42_rle_decoder.md: `RLD.LIT`, `RLD.REP`, `RLD.END`, and its entry. -/

namespace Sys2Proof.Machine

/-- The delta bytes `ds` at the cursor, when they fit: each through `XDD.BYTE`, then the cursor advances. When they would pass
`L`: the fault `OVERRUN` before any write (rules R111, R112, R113). -/
def rldBytes (ds : List Byte) (s : State) : State :=
  if s.params.decL < s.dec.cursor + ds.length then raiseFault s .overrun
  else (xddBytes s s.dec.cursor ds).setCursor (s.dec.cursor + ds.length)

/-- `RLD.LIT` (rule R111). -/
def rldLit (bytes : List Byte) (s : State) : State := rldBytes bytes s

/-- `RLD.REP` (rule R112). -/
def rldRep (byte : Byte) (count : Nat) (s : State) : State := rldBytes (repBytes byte count) s

/-- `RLD.END`: at the cursor `L` the frame is committed (rule R114); elsewhere the fault `LENGTH_MISMATCH` (rule R115). -/
def rldEnd (s : State) : State :=
  if s.dec.cursor = s.params.decL then (((blrRxCommit s).setCursor 0).setDecFirst false).raiseEvent .frameDone
  else raiseFault s .lengthMismatch

/-- The operation a chunk runs (rule R110). -/
def rld : Chunk → State → State
  | .literal bytes _, s => rldLit bytes s
  | .rep byte count _, s => rldRep byte count s
  | .endMark, s => rldEnd s

/-- An operation of the receiving half runs only while `DEC_FAULT = 0`; otherwise nothing is accepted and nothing changes
(rules R110, R168). DEDUCED: the step is then one in which nothing happens (log entry 18; safe). -/
def accepting (op : State → State) (s : State) : State := if s.dec.fault = .none then op s else s

/-- `deliver c`: the source's `decode(chunk)` (rules R110, R140). -/
def deliver (c : Chunk) (s : State) : State := accepting (rld c) s

/-- What an instruction with operands does: it delivers the chunk of its operands. Operands that are no chunk's stop it by name:
nothing on the chunk-level interface can carry them (rule R60; log entry 17). -/
def carry (c : Option Chunk) (s : State) : Host.Outcome State Fault Refusal :=
  match c with
  | some c => .next (deliver c s)
  | none => .refused .noSuchChunk

end Sys2Proof.Machine
end

