-- ==== Sys2Proof/Machine/End.lean ====
section
/-! DEFINITION. The meaning of `END` (42_rle_decoder.md rules R114, R115). -/

namespace Sys2Proof.Machine

/-- `END`: `RLD.END`. -/
def execEndFrame (s : State) : Host.Outcome State Fault Refusal := .next (deliver .endMark s)

end Sys2Proof.Machine
end

