-- ==== Sys2Proof/Machine/Literal.lean ====
section
/-! DEFINITION. The meanings of `LIT1` to `LIT16` (42_rle_decoder.md rules R111, R113): each delivers its payload. -/

namespace Sys2Proof.Machine

/-- `LIT1`: `RLD.LIT` of its 1 payload byte. -/
def execLit1 (payload : List Byte) (s : State) : Host.Outcome State Fault Refusal := carry (Chunk.ofBytes payload) s

/-- `LIT2`: `RLD.LIT` of its 2 payload bytes. -/
def execLit2 (payload : List Byte) (s : State) : Host.Outcome State Fault Refusal := carry (Chunk.ofBytes payload) s

/-- `LIT3`: `RLD.LIT` of its 3 payload bytes. -/
def execLit3 (payload : List Byte) (s : State) : Host.Outcome State Fault Refusal := carry (Chunk.ofBytes payload) s

/-- `LIT4`: `RLD.LIT` of its 4 payload bytes. -/
def execLit4 (payload : List Byte) (s : State) : Host.Outcome State Fault Refusal := carry (Chunk.ofBytes payload) s

/-- `LIT5`: `RLD.LIT` of its 5 payload bytes. -/
def execLit5 (payload : List Byte) (s : State) : Host.Outcome State Fault Refusal := carry (Chunk.ofBytes payload) s

/-- `LIT6`: `RLD.LIT` of its 6 payload bytes. -/
def execLit6 (payload : List Byte) (s : State) : Host.Outcome State Fault Refusal := carry (Chunk.ofBytes payload) s

/-- `LIT7`: `RLD.LIT` of its 7 payload bytes. -/
def execLit7 (payload : List Byte) (s : State) : Host.Outcome State Fault Refusal := carry (Chunk.ofBytes payload) s

/-- `LIT8`: `RLD.LIT` of its 8 payload bytes. -/
def execLit8 (payload : List Byte) (s : State) : Host.Outcome State Fault Refusal := carry (Chunk.ofBytes payload) s

/-- `LIT9`: `RLD.LIT` of its 9 payload bytes. -/
def execLit9 (payload : List Byte) (s : State) : Host.Outcome State Fault Refusal := carry (Chunk.ofBytes payload) s

/-- `LIT10`: `RLD.LIT` of its 10 payload bytes. -/
def execLit10 (payload : List Byte) (s : State) : Host.Outcome State Fault Refusal := carry (Chunk.ofBytes payload) s

/-- `LIT11`: `RLD.LIT` of its 11 payload bytes. -/
def execLit11 (payload : List Byte) (s : State) : Host.Outcome State Fault Refusal := carry (Chunk.ofBytes payload) s

/-- `LIT12`: `RLD.LIT` of its 12 payload bytes. -/
def execLit12 (payload : List Byte) (s : State) : Host.Outcome State Fault Refusal := carry (Chunk.ofBytes payload) s

/-- `LIT13`: `RLD.LIT` of its 13 payload bytes. -/
def execLit13 (payload : List Byte) (s : State) : Host.Outcome State Fault Refusal := carry (Chunk.ofBytes payload) s

/-- `LIT14`: `RLD.LIT` of its 14 payload bytes. -/
def execLit14 (payload : List Byte) (s : State) : Host.Outcome State Fault Refusal := carry (Chunk.ofBytes payload) s

/-- `LIT15`: `RLD.LIT` of its 15 payload bytes. -/
def execLit15 (payload : List Byte) (s : State) : Host.Outcome State Fault Refusal := carry (Chunk.ofBytes payload) s

/-- `LIT16`: `RLD.LIT` of its 16 payload bytes. -/
def execLit16 (payload : List Byte) (s : State) : Host.Outcome State Fault Refusal := carry (Chunk.ofBytes payload) s

end Sys2Proof.Machine
end

