-- ==== Sys2Proof/Machine/Repeat.lean ====
section
/-! DEFINITION. The meanings of the seven `REP` rows (42_rle_decoder.md rules R112, R113): each delivers its repeat. -/

namespace Sys2Proof.Machine

/-- `REP.2_129`: `RLD.REP` with a count of 2 to 129. -/
def execRep2To129 (count : Nat) (byte : Byte) (s : State) : Host.Outcome State Fault Refusal := carry (Chunk.ofRun byte count) s

/-- `REP.130_193`: `RLD.REP` with a count of 130 to 193. -/
def execRep130To193 (count : Nat) (byte : Byte) (s : State) : Host.Outcome State Fault Refusal := carry (Chunk.ofRun byte count) s

/-- `REP.194_225`: `RLD.REP` with a count of 194 to 225. -/
def execRep194To225 (count : Nat) (byte : Byte) (s : State) : Host.Outcome State Fault Refusal := carry (Chunk.ofRun byte count) s

/-- `REP.226_241`: `RLD.REP` with a count of 226 to 241. -/
def execRep226To241 (count : Nat) (byte : Byte) (s : State) : Host.Outcome State Fault Refusal := carry (Chunk.ofRun byte count) s

/-- `REP.242_249`: `RLD.REP` with a count of 242 to 249. -/
def execRep242To249 (count : Nat) (byte : Byte) (s : State) : Host.Outcome State Fault Refusal := carry (Chunk.ofRun byte count) s

/-- `REP.250_253`: `RLD.REP` with a count of 250 to 253. -/
def execRep250To253 (count : Nat) (byte : Byte) (s : State) : Host.Outcome State Fault Refusal := carry (Chunk.ofRun byte count) s

/-- `REP.254_255`: `RLD.REP` with a count of 254 to 255. -/
def execRep254To255 (count : Nat) (byte : Byte) (s : State) : Host.Outcome State Fault Refusal := carry (Chunk.ofRun byte count) s

end Sys2Proof.Machine
end

