-- ==== Sys2Proof/Machine/Reserved.lean ====
section
/-! DEFINITION. The meanings of the 22 `RESERVED` rows (45_chunk_deserializer.md rule R141, 60_exceptions.md rule R163): each takes
the fault `MALFORMED_TAG`, whatever its tag. The tag stays in `DES_TAG` and the phase stays `TAG1`: `DES.BYTE` wrote them. -/

namespace Sys2Proof.Machine

/-- The fault `MALFORMED_TAG`, taken while no fault is held (rules R141, R168). -/
def malformedTag (s : State) : State := accepting (fun s => raiseFault s .malformedTag) s

/-- `RESERVED.0`: a reserved tag, `0x4000` to `0x7FFF`. -/
def execReserved0 (s : State) : Host.Outcome State Fault Refusal := .next (malformedTag s)

/-- `RESERVED.1`: a reserved tag, `0x2000` to `0x3FFF`. -/
def execReserved1 (s : State) : Host.Outcome State Fault Refusal := .next (malformedTag s)

/-- `RESERVED.2`: a reserved tag, `0x1000` to `0x1FFF`. -/
def execReserved2 (s : State) : Host.Outcome State Fault Refusal := .next (malformedTag s)

/-- `RESERVED.3`: a reserved tag, `0x0800` to `0x0FFF`. -/
def execReserved3 (s : State) : Host.Outcome State Fault Refusal := .next (malformedTag s)

/-- `RESERVED.4`: a reserved tag, `0x0400` to `0x07FF`. -/
def execReserved4 (s : State) : Host.Outcome State Fault Refusal := .next (malformedTag s)

/-- `RESERVED.5`: a reserved tag, `0x0200` to `0x03FF`. -/
def execReserved5 (s : State) : Host.Outcome State Fault Refusal := .next (malformedTag s)

/-- `RESERVED.6`: a reserved tag, `0x0100` to `0x01FF`. -/
def execReserved6 (s : State) : Host.Outcome State Fault Refusal := .next (malformedTag s)

/-- `RESERVED.7`: a reserved tag, `0x0080` to `0x00FF`. -/
def execReserved7 (s : State) : Host.Outcome State Fault Refusal := .next (malformedTag s)

/-- `RESERVED.8`: a reserved tag, `0x0040` to `0x007F`. -/
def execReserved8 (s : State) : Host.Outcome State Fault Refusal := .next (malformedTag s)

/-- `RESERVED.9`: a reserved tag, `0x0020` to `0x003F`. -/
def execReserved9 (s : State) : Host.Outcome State Fault Refusal := .next (malformedTag s)

/-- `RESERVED.10`: a reserved tag, `0x0018` to `0x001F`. -/
def execReserved10 (s : State) : Host.Outcome State Fault Refusal := .next (malformedTag s)

/-- `RESERVED.11`: a reserved tag, `0x0014` to `0x0017`. -/
def execReserved11 (s : State) : Host.Outcome State Fault Refusal := .next (malformedTag s)

/-- `RESERVED.12`: a reserved tag, `0x0012` to `0x0013`. -/
def execReserved12 (s : State) : Host.Outcome State Fault Refusal := .next (malformedTag s)

/-- `RESERVED.13`: a reserved tag, `0x0011` to `0x0011`. -/
def execReserved13 (s : State) : Host.Outcome State Fault Refusal := .next (malformedTag s)

/-- `RESERVED.14`: a reserved tag, `0x8000` to `0xBFFF`. -/
def execReserved14 (s : State) : Host.Outcome State Fault Refusal := .next (malformedTag s)

/-- `RESERVED.15`: a reserved tag, `0xC000` to `0xDFFF`. -/
def execReserved15 (s : State) : Host.Outcome State Fault Refusal := .next (malformedTag s)

/-- `RESERVED.16`: a reserved tag, `0xE000` to `0xEFFF`. -/
def execReserved16 (s : State) : Host.Outcome State Fault Refusal := .next (malformedTag s)

/-- `RESERVED.17`: a reserved tag, `0xF000` to `0xF7FF`. -/
def execReserved17 (s : State) : Host.Outcome State Fault Refusal := .next (malformedTag s)

/-- `RESERVED.18`: a reserved tag, `0xF800` to `0xFBFF`. -/
def execReserved18 (s : State) : Host.Outcome State Fault Refusal := .next (malformedTag s)

/-- `RESERVED.19`: a reserved tag, `0xFC00` to `0xFDFF`. -/
def execReserved19 (s : State) : Host.Outcome State Fault Refusal := .next (malformedTag s)

/-- `RESERVED.20`: a reserved tag, `0xFE00` to `0xFEFF`. -/
def execReserved20 (s : State) : Host.Outcome State Fault Refusal := .next (malformedTag s)

/-- `RESERVED.21`: a reserved tag, `0xFF00` to `0xFF01`. -/
def execReserved21 (s : State) : Host.Outcome State Fault Refusal := .next (malformedTag s)

end Sys2Proof.Machine
end

