-- ==== Sys2Proof/Machine/Dispatch.lean ====
section
/-! DEFINITION. One arm per instruction: the operation of the receiving half that a completed chunk runs (rules R110, R140, R141). -/

namespace Sys2Proof.Machine

def exec (i : Instr) (s : State) : Host.Outcome State Fault Refusal :=
  match i with
  | .endFrame => Sys2Proof.Machine.execEndFrame s
  | .lit1 payload => Sys2Proof.Machine.execLit1 payload s
  | .lit2 payload => Sys2Proof.Machine.execLit2 payload s
  | .lit3 payload => Sys2Proof.Machine.execLit3 payload s
  | .lit4 payload => Sys2Proof.Machine.execLit4 payload s
  | .lit5 payload => Sys2Proof.Machine.execLit5 payload s
  | .lit6 payload => Sys2Proof.Machine.execLit6 payload s
  | .lit7 payload => Sys2Proof.Machine.execLit7 payload s
  | .lit8 payload => Sys2Proof.Machine.execLit8 payload s
  | .lit9 payload => Sys2Proof.Machine.execLit9 payload s
  | .lit10 payload => Sys2Proof.Machine.execLit10 payload s
  | .lit11 payload => Sys2Proof.Machine.execLit11 payload s
  | .lit12 payload => Sys2Proof.Machine.execLit12 payload s
  | .lit13 payload => Sys2Proof.Machine.execLit13 payload s
  | .lit14 payload => Sys2Proof.Machine.execLit14 payload s
  | .lit15 payload => Sys2Proof.Machine.execLit15 payload s
  | .lit16 payload => Sys2Proof.Machine.execLit16 payload s
  | .rep2To129 count byte => Sys2Proof.Machine.execRep2To129 count byte s
  | .rep130To193 count byte => Sys2Proof.Machine.execRep130To193 count byte s
  | .rep194To225 count byte => Sys2Proof.Machine.execRep194To225 count byte s
  | .rep226To241 count byte => Sys2Proof.Machine.execRep226To241 count byte s
  | .rep242To249 count byte => Sys2Proof.Machine.execRep242To249 count byte s
  | .rep250To253 count byte => Sys2Proof.Machine.execRep250To253 count byte s
  | .rep254To255 count byte => Sys2Proof.Machine.execRep254To255 count byte s
  | .reserved0 _ => Sys2Proof.Machine.execReserved0 s
  | .reserved1 _ => Sys2Proof.Machine.execReserved1 s
  | .reserved2 _ => Sys2Proof.Machine.execReserved2 s
  | .reserved3 _ => Sys2Proof.Machine.execReserved3 s
  | .reserved4 _ => Sys2Proof.Machine.execReserved4 s
  | .reserved5 _ => Sys2Proof.Machine.execReserved5 s
  | .reserved6 _ => Sys2Proof.Machine.execReserved6 s
  | .reserved7 _ => Sys2Proof.Machine.execReserved7 s
  | .reserved8 _ => Sys2Proof.Machine.execReserved8 s
  | .reserved9 _ => Sys2Proof.Machine.execReserved9 s
  | .reserved10 _ => Sys2Proof.Machine.execReserved10 s
  | .reserved11 _ => Sys2Proof.Machine.execReserved11 s
  | .reserved12 _ => Sys2Proof.Machine.execReserved12 s
  | .reserved13 _ => Sys2Proof.Machine.execReserved13 s
  | .reserved14 _ => Sys2Proof.Machine.execReserved14 s
  | .reserved15 _ => Sys2Proof.Machine.execReserved15 s
  | .reserved16 _ => Sys2Proof.Machine.execReserved16 s
  | .reserved17 _ => Sys2Proof.Machine.execReserved17 s
  | .reserved18 _ => Sys2Proof.Machine.execReserved18 s
  | .reserved19 _ => Sys2Proof.Machine.execReserved19 s
  | .reserved20 _ => Sys2Proof.Machine.execReserved20 s
  | .reserved21 _ => Sys2Proof.Machine.execReserved21 s

end Sys2Proof.Machine
end

