-- ==== Sys2Proof/Machine/RunEncoder.lean ====
section
/-! DEFINITION. The run-length encoder, 41_rle_encoder.md: `RLE.PUSH`, one definition per case, and `RLE.FLUSH`. -/

namespace Sys2Proof.Machine

/-- The sequence `lbuf` of the rules: `ENC_LBUF[0 .. ENC_LLEN-1]` (rules R16, R90). -/
def Enc.pending (e : Enc) : List Byte := e.lbuf.toList.take e.llen

/-- `lbuf <- [w]`. DEDUCED: the entries behind the length keep what they held (log entry 6; unsafe for statements about them). -/
def Enc.startLiteral (e : Enc) (w : Byte) : Enc :=
  { e with lbuf := e.lbuf.setIfInBounds 0 w, llen := 1 }

/-- `lbuf <- lbuf ++ [w]`: append at index `ENC_LLEN` (rule R16). -/
def Enc.appendLiteral (e : Enc) (w : Byte) : Enc :=
  { e with lbuf := e.lbuf.setIfInBounds e.llen w, llen := e.llen + 1 }

/-- Mode `Idle`: the first byte of a frame is buffered (rule R91). -/
def rleFirst (w : Byte) (e : Enc) : Enc × Option Chunk :=
  ({ e.startLiteral w with prev := w, mode := .acc }, none)

/-- Mode `Acc`, a differing byte, room left: extend the literal (rule R92). -/
def rleExtend (w : Byte) (e : Enc) : Enc × Option Chunk :=
  ({ e.appendLiteral w with prev := w }, none)

/-- Mode `Acc`, a differing byte, the literal reaches its cap (rule R93). -/
def rleLiteralCap (w : Byte) (e : Enc) : Enc × Option Chunk :=
  ({ e with llen := 0, prev := w }, Chunk.ofBytes (e.pending ++ [w]))

/-- Mode `Acc`, an equal byte, a literal pending: withdraw the previous byte, emit what is left if it is not empty, open a run of
two (rule R94). -/
def rleLiteralToRun (w : Byte) (e : Enc) : Enc × Option Chunk :=
  ({ e with llen := 0, cnt := 2, mode := .rep, prev := w }, Chunk.ofBytes e.pending.dropLast)

/-- Mode `Acc`, an equal byte right after a cap emission: open a run of one (rule R95). -/
def rleRunAfterCap (w : Byte) (e : Enc) : Enc × Option Chunk :=
  ({ e with cnt := 1, mode := .rep, prev := w }, none)

/-- Mode `Rep`, an equal byte: extend the run, emit it at the cap (rule R96). -/
def rleRun (w : Byte) (e : Enc) : Enc × Option Chunk :=
  if e.cnt + 1 = Config.repCap then ({ e with cnt := 0, prev := w }, some (.rep e.prev Config.repCap))
  else ({ e with cnt := e.cnt + 1, prev := w }, none)

/-- Mode `Rep`, a differing byte: emit the run if it is not empty, open a literal (rule R97). -/
def rleRunToLiteral (w : Byte) (e : Enc) : Enc × Option Chunk :=
  ({ e.startLiteral w with cnt := 0, prev := w, mode := .acc }, Chunk.ofRun e.prev e.cnt)

/-- `RLE.PUSH(w)` by the case table of rule R90: the registers after it, and the chunk it emits, if any (rule R98). -/
def rlePush (w : Byte) (e : Enc) : Enc × Option Chunk :=
  match e.mode with
  | .idle => rleFirst w e
  | .acc =>
    if w = e.prev then
      if e.llen = 0 then rleRunAfterCap w e else rleLiteralToRun w e
    else if e.llen + 1 < Config.litCap then rleExtend w e
    else rleLiteralCap w e
  | .rep => if w = e.prev then rleRun w e else rleRunToLiteral w e

/-- The pending item of `RLE.FLUSH`, which goes out before `End`; none where it is empty (rule R99). -/
def flushPending (e : Enc) : Option Chunk :=
  match e.mode with
  | .idle => none
  | .acc => Chunk.ofBytes e.pending
  | .rep => Chunk.ofRun e.prev e.cnt

/-- The next chunk of `RLE.FLUSH`, and the registers once the sink has taken it: the pending item first, if it is not empty, and the
registers keep what they hold; then `End`, and the registers go back (rules R99, R105; log entry 12). DESIGN CHOICE (log entry 24;
unsafe for statements about it in mode `Idle`): `ENC_PREV`, meaningless from here to the next frame's first byte (rule R14, U8), keeps
the frame's last delta byte. -/
def rleFlushNext (e : Enc) : Enc × Chunk :=
  match (if e.ending then none else flushPending e) with
  | some c => ({ e with ending := true }, c)
  | none => ({ e with llen := 0, cnt := 0, mode := .idle, idx := 0, first := false, busy := false, ending := false }, .endMark)

/-- All the chunks of `RLE.FLUSH`, `End` last (rule R99). -/
def rleFlush (e : Enc) : List Chunk := (flushPending e).toList ++ [.endMark]

end Sys2Proof.Machine
end

