-- ==== Sys2Proof/Machine/Serializer.lean ====
section
/-! DEFINITION. The chunk serializer, 44_chunk_serializer.md: `SER.END`, `SER.LIT`, `SER.REP`. It has no state (rule R125). -/

namespace Sys2Proof.Machine

/-- `SER.END` (rule R126). -/
def serEnd : List Byte := wireEnd

/-- `SER.LIT` (rule R127). -/
def serLit (bytes : List Byte) : List Byte := wireLiteral bytes

/-- `SER.REP`: a count of 1 is sent as a literal of one byte (rule R129), any other by its tag (rule R128). -/
def serRep (byte : Byte) (count : Nat) : List Byte :=
  if count = 1 then wireLiteral [byte] else wireRepeat count byte

/-- `Ser(c)` (rule R130). -/
def ser : Chunk → List Byte
  | .endMark => serEnd
  | .literal bytes _ => serLit bytes
  | .rep byte count _ => serRep byte count

/-- The serialized form of a chunk sequence: `Ser` of each, in order (rule R130). -/
def serAll (cs : List Chunk) : List Byte := cs.flatMap ser

end Sys2Proof.Machine
end

