-- ==== Sys2Proof/Machine/XorEncoder.lean ====
section
/-! DEFINITION. The XOR-delta encoder, 40_xor_delta_encoder.md: `ENC.START` and `XDE.BYTE`. -/

namespace Sys2Proof.Machine

/-- `ENC.START`: begins an encode when none is in progress; otherwise the request is ignored (rule R81). -/
def encStart (s : State) : State :=
  if s.enc.busy then s else s.setEnc { s.enc with busy := true, idx := 0 }

/-- The delta byte `W[i]`: the frame byte against the old baseline byte when XOR is active, else the frame byte (rule R82). -/
def deltaByte (active : Bool) (frameByte baseByte : Byte) : Byte :=
  if active then frameByte ^^^ baseByte else frameByte

/-- `XDE.BYTE(ENC_IDX)`: both reads, then the raw byte into `TXB`, then the index; answers the delta byte (rules R48, R82). -/
def xdeByte (s : State) : State × Byte :=
  let i := s.enc.idx
  let f := memRead s .frame i
  let t := blrRead s .txb i
  let w := deltaByte (encXorActive s) f t
  let s' := blrTxUpd s i f
  (s'.setEnc { s'.enc with idx := i + 1 }, w)

end Sys2Proof.Machine
end

