-- ==== Sys2Proof/Machine/Encoder.lean ====
section
/-! DEFINITION. The steps of agent ENC: the encode sequence of 40_xor_delta_encoder.md rule R80, with the waits of
41_rle_encoder.md rule R105 and 44_chunk_serializer.md rule R131. -/

namespace Sys2Proof.Machine

/-- One iteration of the scan: `XDE.BYTE(ENC_IDX)`, then `RLE.PUSH` of its delta byte (rule R80). -/
def encScan (s : State) : State × Option Chunk :=
  let (s', w) := xdeByte s
  let (e, c) := rlePush w s'.enc
  (s'.setEnc e, c)

/-- At the end of the scan: the next chunk of `RLE.FLUSH` (rules R80, R99). -/
def encFlush (s : State) : State × Option Chunk :=
  let (e, c) := rleFlushNext s.enc
  (s.setEnc e, some c)

/-- The next step of ENC, up to its sink: the state once the step is complete, and the chunk the sink has to take first, if any.
Nothing when no encode is in progress, an iteration of the scan below `L`, a chunk of the flush at `L` (rules R80, R84). A
register beyond its cap or an index beyond `L`, which no run from reset reaches, stops the model by name (rules R84, R104; log
entry 10). -/
def encNext (s : State) : Host.Outcome (State × Option Chunk) Fault Refusal :=
  if s.enc.busy = false then .next (s, none)
  else if Config.litCap ≤ s.enc.llen ∨ Config.repCap ≤ s.enc.cnt then .fault .capOverflow
  else if s.enc.idx < s.params.encL then .next (encScan s)
  else if s.enc.idx = s.params.encL then .next (encFlush s)
  else .fault .encIndexPastEnd

/-- Once the sink has taken `End`, `enc_done` is raised (rule R99). -/
def chunkTaken (c : Chunk) (s : State) : State :=
  match c with
  | .literal _ _ => s
  | .rep _ _ _ => s
  | .endMark => s.raiseEvent .encDone

/-- A step of ENC into a sink that is ready or not. `emit c` completes when the sink has taken `c`; while it is not ready the whole
step waits, and nothing changes (rule R105). -/
def encTurnInto (ready : Bool) (sink : Chunk → State → State) (s : State) : Host.Outcome State Fault Refusal :=
  match encNext s with
  | .next (t, none) => .next t
  | .next (t, some c) => .next (if ready then chunkTaken c (sink c t) else s)
  | .fault f => .fault f
  | .refused r => .refused r

/-- The serializer as the sink: one of its operations, all its bytes at once (rule R125; log entry 12). -/
def sendChunk (c : Chunk) (s : State) : State := sendBytes s (ser c)

/-- ENC takes its next step, its chunk going through the serializer to the channel: one operation of the serializer at most, which
waits for `tx_ready` (rules R105, R125, R131). -/
def encTurn (s : State) : Host.Outcome State Fault Refusal := encTurnInto s.chan.txReady sendChunk s

end Sys2Proof.Machine
end

