-- ==== Sys2Proof/Machine/Reset.lean ====
section
/-! DEFINITION. The event `RESET` of each half (70_reset_and_hazards.md rules R180 to R183). -/

namespace Sys2Proof.Machine

/-- `RESET` of the sending half: one step, from any state, that installs rule R181's values and touches neither `FRAME` nor the
channel (rules R154, R180, R183). -/
def resetEnc (s : State) : State := blrReset (s.setEnc { Enc.reset with txb := s.enc.txb }) .txb

/-- `RESET` of the receiving half: one step, from any state, that installs rule R182's values and does not empty the channel
(rules R148, R154, R180, R183). It is the way out of a fault (rule R172). `DST` is unspecified again: a new epoch (log entry 7). -/
def resetDec (s : State) : State :=
  blrReset { s with dec := { Dec.reset (s.dec.epoch + 1) with rxb := s.dec.rxb } } .rxb

end Sys2Proof.Machine
end

