-- ==== Sys2Proof/Machine/Turns.lean ====
section
/-! DEFINITION. The moves of the agents (00_scope.md rule R9): the delivery of one byte to DEC, the hosts' and the channel's moves,
and the move made when none is scheduled. -/

namespace Sys2Proof.Machine

/-- `DES.BYTE(x)` with the operation of the chunk it completes, as one step (rules R135, R140). -/
def desByte (x : Byte) (s : State) : Host.Outcome State Fault Refusal :=
  match desAccept s.dec.des x with
  | (d, none) => .next (s.setDes d)
  | (d, some i) => exec i (s.setDes d)

/-- A transfer to DEC can happen: the channel offers a byte and `rx_ready` is 1 (rules R36, R135). -/
def decCanTake (s : State) : Bool := s.chan.rxValid && !s.chan.bytes.isEmpty && rxReady s

/-- The channel delivers its oldest byte to DEC; when no transfer can happen nothing changes (rules R54, R135, R143, R168). -/
def decTurn (s : State) : Host.Outcome State Fault Refusal :=
  match s.chan.bytes with
  | [] => .next s
  | x :: rest => if decCanTake s then desByte x (s.setBytes rest) else .next s

/-- The TX host writes a byte of `FRAME`. While an encode is in progress the host has no such move (rule R187; log entry 14), and
an index at or above `L` names no byte (rule R40; log entry 15). -/
def writeFrame (index : Nat) (byte : Byte) (s : State) : Host.Outcome State Fault Refusal :=
  if s.enc.busy then .refused .frameWriteWhileBusy
  else if index < s.params.encL then .next (memWrite s .frame index byte)
  else .fault (.noSuchFrameIndex index)

/-- One move of one agent. A start is issued whether or not it is ignored (rules R81, R196; log entry 22). -/
def makeMove (m : Move) (s : State) : Host.Outcome State Fault Refusal :=
  match m with
  | .writeFrame index byte => writeFrame index byte s
  | .encStart => .next (encStart s.countStart)
  | .encReset => .next (resetEnc s)
  | .decReset => .next (resetDec s)
  | .emptyChannel => .next (s.setBytes [])
  | .setTxReady level => .next (s.setTxReady level)
  | .setRxValid level => .next (s.setRxValid level)
  | .encTurn => encTurn s
  | .decTurn => decTurn s

/-- DESIGN CHOICE (log entry 11). With no move scheduled, an agent that can step does (rule R199): DEC before ENC; when neither
can, nothing changes (rules R175, R184, R198). -/
def autoMove (s : State) : Host.Outcome State Fault Refusal :=
  if decCanTake s then decTurn s
  else if s.enc.busy then encTurn s
  else .next s

/-- The deserializer having accepted every byte of an instruction but its last, from phase `TAG0`. -/
def desBeforeLast (d : Des) (front : List Byte) : Des :=
  desAcceptAll { d with phase := .tag0, cnt := 0 } front

/-- How many bytes the instruction at the front of `bs` has (rule R68). -/
def wireLength (bs : List Byte) : Nat :=
  match bs with
  | lo :: hi :: _ => 2 + (classifyTag (tagOfBytes lo hi)).payloadLength
  | _ => 0

/-- The state in which the next step completes and runs the instruction at the front of `bs`: its bytes but the last are in the
deserializer, its last byte is the channel's oldest and is offered, no fault is held, and the next move is DEC's (log entry 19). -/
def placeInstr (s : State) (bs : List Byte) : State :=
  let n := wireLength bs
  let s' := (s.setDes (desBeforeLast s.dec.des (bs.take (n - 1)))).setBytes ((bs.take n).drop (n - 1) ++ s.chan.bytes)
  ((s'.setRxValid true).setFault .none).setSchedule (.decTurn :: s.schedule)

end Sys2Proof.Machine
end

