-- ==== Sys2Proof/Machine/Step.lean ====
section
/-! DEFINITION. One step of the system (00_scope.md rule R9), and where an instruction is placed for the next step to run it. -/

namespace Sys2Proof.Machine

/-- One step: the next scheduled move, used up as it is made; with none scheduled, the move an agent makes by itself
(log entry 11). -/
def step (s : State) : Host.Outcome State Fault Refusal :=
  match s.schedule with
  | [] => autoMove s
  | m :: rest => makeMove m (s.setSchedule rest)

/-- `s` with the instruction whose bits are `w` placed so that the next step runs it (log entry 19). -/
def State.withFetchWord (s : State) (nbits w : Nat) : State := placeInstr s (tableBytes nbits w)

end Sys2Proof.Machine
end

