-- ==== Sys2Proof/Machine/Compose.lean ====
section
/-! DEFINITION. The stages as functions of whole frames (40_xor_delta_encoder.md rule R86, 41_rle_encoder.md rule R101,
42_rle_decoder.md rule R118, 70_reset_and_hazards.md rule R195): what claims compare the machine's steps with. -/

namespace Sys2Proof.Machine

/-- All the bytes of a space, index 0 first. -/
def readAll (s : State) (sp : Space) : List Byte := (List.range (s.spaceLength sp)).map (memRead s sp)

/-- The delta stream `W` of a frame against a baseline (rule R86). -/
def deltaStream (active : Bool) (frame base : List Byte) : List Byte := List.zipWith (deltaByte active) frame base

/-- `RLE.PUSH` of each byte in order: the registers after them, and the chunks emitted (rule R101). -/
def rlePushAll : List Byte → Enc → Enc × List Chunk
  | [], e => (e, [])
  | w :: ws, e =>
    let (e', c) := rlePush w e
    let (e'', cs) := rlePushAll ws e'
    (e'', c.toList ++ cs)

/-- `RleEncode(W)`: from mode `Idle`, the pushes, then the flush (rule R101). -/
def rleEncode (ws : List Byte) : List Chunk :=
  let (e, cs) := rlePushAll ws Enc.reset
  cs ++ rleFlush e

/-- `XorDeltaEncode(F, B, a)`: the delta stream, and the baseline after it (rule R86). -/
def xorDeltaEncode (active : Bool) (frame base : List Byte) : List Byte × List Byte :=
  (deltaStream active frame base, frame)

/-- What the sending half makes of a frame (rule R101), with what it leaves in `TXB` and `ENC_FIRST` (rules R86, R99). -/
structure Encoded where
  chunks : List Chunk
  txb : List Byte
  first : Bool
  deriving DecidableEq, Repr

/-- `Encode(F)` of the frame now in `FRAME`, as a function (rules R86, R101, R195). -/
def encodeFrame (s : State) : Encoded :=
  let (ws, base) := xorDeltaEncode (encXorActive s) (readAll s .frame) (readAll s .txb)
  { chunks := rleEncode ws, txb := base, first := false }

/-- The chunks of `Encode(F)` (rule R101). -/
def encodeChunks (s : State) : List Chunk := (encodeFrame s).chunks

/-- Whether a chunk is a `Literal` (rule R133 counts them). -/
def Chunk.isLiteral : Chunk → Bool
  | .literal _ _ => true
  | .rep _ _ _ => false
  | .endMark => false

/-- Chunks delivered in order over the chunk-level interface (rules R36, R195). -/
def deliverAll (cs : List Chunk) (s : State) : State := cs.foldl (fun s c => deliver c s) s

end Sys2Proof.Machine
end

