-- ==== Sys2Proof/Machine/Compositions.lean ====
section
/-! DEFINITION. The two other compositions of the halves (70_reset_and_hazards.md rule R195), each a machine beside the wire-level one
of Machine/Step.lean: (b) a channel of chunks between the run-length encoder and the run-length decoder, (c) the direct call.
They share the operations of the halves, the moves of the hosts, and the schedule (log entries 11, 23). -/

namespace Sys2Proof.Machine

/-- The chunk-level composition (b): the two halves and the hosts, with chunks in flight in place of bytes. The bytes in flight and
the deserializer of `sys` are not used; its levels stand for the chunk channel's (rules R36, R60, R195). -/
structure ChunkSystem where
  sys : State
  /-- The chunks in flight, oldest first. -/
  chunks : List Chunk
  deriving DecidableEq, Repr

/-- ENC takes its next step, its chunk going to the chunk channel when that is ready (rules R105, R195). -/
def chunkEncTurn (c : ChunkSystem) : Host.Outcome ChunkSystem Fault Refusal :=
  match encNext c.sys with
  | .next (t, none) => .next { c with sys := t }
  | .next (t, some k) =>
    .next (if c.sys.chan.txReady then { sys := chunkTaken k t, chunks := c.chunks ++ [k] } else c)
  | .fault f => .fault f
  | .refused r => .refused r

/-- A chunk can be taken: the chunk channel offers one, and no fault is held (rules R36, R168). -/
def chunkCanTake (c : ChunkSystem) : Bool := c.sys.chan.rxValid && !c.chunks.isEmpty && rxReady c.sys

/-- The chunk channel delivers its oldest chunk to the run-length decoder; when it cannot nothing changes (rules R110, R195). -/
def chunkDecTurn (c : ChunkSystem) : ChunkSystem :=
  match c.chunks with
  | [] => c
  | k :: rest => if chunkCanTake c then { sys := deliver k c.sys, chunks := rest } else c

/-- A move of a host or of the channel, made on the halves. -/
def onSys (m : Move) (c : ChunkSystem) : Host.Outcome ChunkSystem Fault Refusal :=
  match makeMove m c.sys with
  | .next t => .next { c with sys := t }
  | .fault f => .fault f
  | .refused r => .refused r

/-- One move of one agent in the chunk-level composition. -/
def chunkMove (m : Move) (c : ChunkSystem) : Host.Outcome ChunkSystem Fault Refusal :=
  match m with
  | .writeFrame index byte => onSys (.writeFrame index byte) c
  | .encStart => onSys .encStart c
  | .encReset => onSys .encReset c
  | .decReset => onSys .decReset c
  | .emptyChannel => .next { c with chunks := [] }
  | .setTxReady level => onSys (.setTxReady level) c
  | .setRxValid level => onSys (.setRxValid level) c
  | .encTurn => chunkEncTurn c
  | .decTurn => .next (chunkDecTurn c)

/-- One step of the chunk-level composition: the next scheduled move; with none scheduled, DEC before ENC (log entry 11). -/
def chunkStep (c : ChunkSystem) : Host.Outcome ChunkSystem Fault Refusal :=
  match c.sys.schedule with
  | [] =>
    if chunkCanTake c then .next (chunkDecTurn c)
    else if c.sys.enc.busy then chunkEncTurn c
    else .next c
  | m :: rest => chunkMove m { c with sys := c.sys.setSchedule rest }

/-- The chunk-level composition as a machine. -/
def chunkCore : Host.Core where
  State := ChunkSystem
  Fault := Fault
  Refusal := Refusal
  step := chunkStep
  reset := { sys := State.reset, chunks := [] }

/-- The direct composition (c): the run-length decoder is ENC's sink, and its operation runs before ENC continues (rule R195). While a
fault is held the decoder takes no chunk, and ENC waits (rules R105, R168; log entry 23). -/
def directEncTurn (s : State) : Host.Outcome State Fault Refusal := encTurnInto (rxReady s) deliver s

/-- One move of one agent in the direct composition. Nothing is ever in flight, so DEC has no turn of its own. -/
def directMove (m : Move) (s : State) : Host.Outcome State Fault Refusal :=
  match m with
  | .writeFrame index byte => makeMove (.writeFrame index byte) s
  | .encStart => makeMove .encStart s
  | .encReset => makeMove .encReset s
  | .decReset => makeMove .decReset s
  | .emptyChannel => .next s
  | .setTxReady level => makeMove (.setTxReady level) s
  | .setRxValid level => makeMove (.setRxValid level) s
  | .encTurn => directEncTurn s
  | .decTurn => .next s

/-- One step of the direct composition: the next scheduled move; with none scheduled, ENC's (log entry 11). -/
def directStep (s : State) : Host.Outcome State Fault Refusal :=
  match s.schedule with
  | [] => if s.enc.busy then directEncTurn s else .next s
  | m :: rest => directMove m (s.setSchedule rest)

/-- The direct composition as a machine. -/
def directCore : Host.Core where
  State := State
  Fault := Fault
  Refusal := Refusal
  step := directStep
  reset := State.reset

end Sys2Proof.Machine
end

