-- ==== Sys2Proof/Machine/Ports.lean ====
section
/-! DEFINITION. The two read ports (10_state.md rule R36). They are functions of the state: a read has no side effect (rule R44),
so reading is no step (DEDUCED, log entry 20; safe). The levels are in Machine/Flags.lean. -/

namespace Sys2Proof.Machine

/-- `frame_data` at `frame_addr`; none outside the buffer (rules R36, R40). -/
def frameData (s : State) (addr : Nat) : Option Byte :=
  if addr < s.spaceLength .frame then some (memRead s .frame addr) else none

/-- `dst_data` at `dst_addr`; none outside the buffer (rules R36, R40). Before the first frame is complete a byte may be a free
value (rule R182). -/
def dstData (s : State) (addr : Nat) : Option Byte :=
  if addr < s.spaceLength .dst then some (memRead s .dst addr) else none

end Sys2Proof.Machine
end

