-- ==== Sys2Proof/Safety.lean ====
section
/-! DEFINITION. The invariants of 10_state.md section 5, the premises of the round trip (42_rle_decoder.md rule R119), what a finished
run is (70_reset_and_hazards.md rule R196), and how states of the three compositions correspond (rule R195). -/

namespace Sys2Proof.Machine

/-- The cells of a buffer are in canonical form and every index lies below the buffer's length (rules R40, R45). -/
def CellsOk (u : Option Byte) (len : Nat) (m : Memory) : Prop :=
  Memory.wf u m = true ∧ ∀ cell ∈ m, cell.1 < len

/-- The encoder registers between steps, for the frame length `len` (rules R13, R15, R17, R19, R32). -/
structure EncOk (len : Nat) (e : Enc) : Prop where
  /-- Rule R32(a): the last pending literal byte is `ENC_PREV`. -/
  last_pending : e.mode = .acc → 0 < e.llen → e.lbuf.toList[e.llen - 1]? = some e.prev
  /-- Rule R32(b). -/
  llen_le : e.llen ≤ 15
  /-- Rule R32(b). -/
  cnt_le : e.cnt ≤ 254
  /-- Rule R32(c). -/
  llen_acc : 0 < e.llen → e.mode = .acc
  /-- Rule R32(c). -/
  cnt_rep : 0 < e.cnt → e.mode = .rep
  /-- Rule R32(d), with R32(c) and `idle_iff`: nothing is pending when no encode is in progress. -/
  idle_of_not_busy : e.busy = false → e.mode = .idle
  /-- Rule R13: in mode `Idle` no byte of the frame has been pushed. -/
  idle_iff : e.mode = .idle ↔ e.idx = 0
  /-- Rule R19. -/
  idx_le : e.idx ≤ len
  /-- Part of rule R32(e): no more bytes are pending than have been pushed. -/
  pending_le : e.llen + e.cnt ≤ e.idx
  /-- The flush is under way only at the end of a scan (rule R99; log entry 12). -/
  ending_at_end : e.ending = true → e.busy = true ∧ e.idx = len

/-- The delta bytes pushed and in no emitted chunk yet: rule R32(e)'s `ENC_LLEN` plus `ENC_CNT` bytes, none once the flush has had
them taken (log entry 12). -/
def Enc.pendingBytes (e : Enc) : List Byte := if e.ending then [] else expandAll (flushPending e).toList

/-- The deserializer registers between steps, beside the fault held (rules R29, R137, R138, R140, R141). -/
structure DesOk (fault : DecFault) (d : Des) : Prop where
  /-- Rule R29: `DES_CNT` is 0 outside phase `LIT`. -/
  cnt_zero : d.phase ≠ .lit → d.cnt = 0
  /-- Rules R137, R138: in phase `LIT` the tag is a literal's and its payload is not complete. -/
  lit_tag : d.phase = .lit → ∃ len, classifyTag d.tag = .literal len ∧ d.cnt < len
  /-- Rules R137, R139: in phase `REP` the tag is a repeat's. -/
  rep_tag : d.phase = .rep → ∃ count, classifyTag d.tag = .rep count
  /-- Rule R141: `MALFORMED_TAG` leaves the offending tag and the phase `TAG1`. -/
  malformed : fault = .malformedTag → d.phase = .tag1 ∧ classifyTag d.tag = .reserved
  /-- Rule R140: the other faults leave the phase `TAG0`. -/
  delivered : fault = .lengthMismatch ∨ fault = .overrun → d.phase = .tag0

/-- The cursor and the destination buffer between steps, for the frame length `len` (rules R25, R33, R117). -/
structure DstOk (len : Nat) (d : Dec) : Prop where
  /-- Rule R33(a). -/
  cursor_le : d.cursor ≤ len
  /-- Rule R33(b): the bytes below the cursor have been written. -/
  written : ∀ i, i < d.cursor → (Memory.lookup d.dst i).isSome
  /-- Rule R25: after the first frame, the bytes from the cursor up are the previous frame's, as in `RXB`. -/
  previous : d.first = false → ∀ i, d.cursor ≤ i → i < len →
    Memory.lookup d.dst i = some ((Memory.lookup d.rxb i).getD 0x00)

/-- The invariant of the system. -/
structure State.Inv (s : State) : Prop where
  frame_ok : CellsOk (unlisted .frame) s.params.encL s.frame
  txb_ok : CellsOk (unlisted .txb) s.params.encL s.enc.txb
  dst_ok : CellsOk (unlisted .dst) s.params.decL s.dec.dst
  rxb_ok : CellsOk (unlisted .rxb) s.params.decL s.dec.rxb
  enc_ok : EncOk s.params.encL s.enc
  des_ok : DesOk s.dec.fault s.dec.des
  dst_state : DstOk s.params.decL s.dec
  /-- Every encode done or in progress was started (rules R81, R99, R196; log entry 22). -/
  starts_cover : s.events.count .encDone + (if s.enc.busy then 1 else 0) ≤ s.starts

/-- The parameters agree: the host's duty of rule R191. -/
def Params.Agree (p : Params) : Prop := p.encL = p.decL ∧ p.encXorEn = p.decXorEn

/-- The premise of the round trip at a frame boundary: the parameters, the baselines and the first-frame flags agree
(rules R119, R190, R191). -/
structure State.Synced (s : State) : Prop where
  params : s.params.Agree
  first : s.enc.first = s.dec.first
  baselines : ∀ i, i < s.params.encL → memRead s .txb i = memRead s .rxb i

/-- Between two frames with nothing in flight and no fault: where a run may end well (rules R32(d), R184, R196). -/
structure State.AtBoundary (s : State) : Prop where
  not_busy : s.enc.busy = false
  idle : s.enc.mode = .idle ∧ s.enc.llen = 0 ∧ s.enc.cnt = 0 ∧ s.enc.idx = 0 ∧ s.enc.ending = false
  channel : s.chan.bytes = []
  phase : s.dec.des.phase = .tag0 ∧ s.dec.des.cnt = 0
  cursor : s.dec.cursor = 0
  no_fault : s.dec.fault = .none

/-- The channel offers the byte `x`, with `rest` behind it, to a receiving half that holds no fault: a transfer happens
(rules R36, R135). -/
structure State.Offers (s : State) (x : Byte) (rest : List Byte) : Prop where
  bytes : s.chan.bytes = x :: rest
  valid : s.chan.rxValid = true
  no_fault : s.dec.fault = .none

/-- Nothing outside the receiving half and the event record differs: what an instruction of the table leaves alone (rule R41).
The count of starts and the schedule are the model's own fields (log entries 22, 11). -/
structure SameOutsideReceiver (s t : State) : Prop where
  params : t.params = s.params
  frame : t.frame = s.frame
  enc : t.enc = s.enc
  chan : t.chan = s.chan
  starts : t.starts = s.starts
  schedule : t.schedule = s.schedule

/-- Nothing outside the sending half, the channel and the event record differs: what a step of ENC leaves alone (rule R41).
The count of starts and the schedule are the model's own fields (log entries 22, 11). -/
structure SameOutsideSender (s t : State) : Prop where
  params : t.params = s.params
  frame : t.frame = s.frame
  dec : t.dec = s.dec
  starts : t.starts = s.starts
  schedule : t.schedule = s.schedule

/-- The faulted receiving half: "gone wrong", never final (rule R168). -/
def State.GoneWrong (s : State) : Prop := s.dec.fault ≠ .none

/-- A run of `n` frames is over: the host has issued `n` starts, `enc_done` has been raised `n` times, the channel is empty, and the
deserializer is in phase `TAG0` (rule R196). -/
def State.RunOver (n : Nat) (s : State) : Prop :=
  s.starts = n ∧ s.events.count .encDone = n ∧ s.chan.bytes = [] ∧ s.dec.des.phase = .tag0

/-- The good end of a run of `n` frames (rule R196). -/
def State.GoodEnd (n : Nat) (s : State) : Prop :=
  s.RunOver n ∧ s.events.count .frameDone = n ∧ s.dec.fault = .none

/-- The bad end of a run of `n` frames, never final (rule R196). -/
def State.BadEnd (n : Nat) (s : State) : Prop := s.RunOver n ∧ s.GoneWrong

/-- The bytes that the deserializer has accepted of a chunk not complete yet (rules R136 to R139). -/
def Des.accepted (d : Des) : List Byte :=
  match d.phase with
  | .tag0 => []
  | .tag1 => [tagLow d.tag]
  | .lit => wireTag d.tag ++ d.lbuf.toList.take d.cnt
  | .rep => wireTag d.tag

/-- A state of the wire-level composition and one of the chunk-level composition that stand at the same point (rule R195): the same
halves but for the deserializer, and the bytes in flight, those of the chunk under way among them, are the chunks' in flight. -/
structure WireMatchesChunks (s : State) (c : ChunkSystem) : Prop where
  params : c.sys.params = s.params
  frame : c.sys.frame = s.frame
  enc : c.sys.enc = s.enc
  dec : { c.sys.dec with des := s.dec.des } = s.dec
  events : c.sys.events = s.events
  starts : c.sys.starts = s.starts
  levels : c.sys.chan.txReady = s.chan.txReady ∧ c.sys.chan.rxValid = s.chan.rxValid
  flight : s.dec.des.accepted ++ s.chan.bytes = serAll c.chunks

/-- A state of the chunk-level composition and one of the direct composition that stand at the same point (rule R195): the receiving
half of the direct one is where that of the other gets with the chunks in flight, and while it holds no fault the sending halves
and the hosts are alike and the same events have been raised, those of the chunks in flight among them. -/
structure ChunksMatchDirect (c : ChunkSystem) (d : State) : Prop where
  params : d.params = c.sys.params
  dec : d.dec = (deliverAll c.chunks c.sys).dec
  frame : d.dec.fault = .none → d.frame = c.sys.frame
  enc : d.dec.fault = .none → d.enc = c.sys.enc
  starts : d.dec.fault = .none → d.starts = c.sys.starts
  events : d.dec.fault = .none → ∀ e, d.events.count e = (deliverAll c.chunks c.sys).events.count e

end Sys2Proof.Machine
end

