-- ==== Sys2Proof/Certificates/Slice0/Obligations.lean ====
section
/-! DEFINITION. The statements for the provers, from the numbered rules of spec/. `chunkOf i` names the rows: `some .endMark` is
`END`, `some (.literal p h)` is one of `LIT1` to `LIT16`, `some (.rep b k h)` is one of the seven `REP` rows, and `none`, for a
well-formed `i`, is one of `RESERVED.0` to `RESERVED.21`. The `h` of a chunk is its proof that its operand is in range (rule R60). -/

open Sys2Proof Sys2Proof.Machine

/-! ## The wire format -/

/-- Decoding an encoded well-formed instruction, of any row and with any operands, gives it back with the bytes behind it
(rules R144, R146). -/
def Obligations.DecodeGivesBackEncoded : Prop :=
  ∀ (i : Instr) (rest : List Byte), i.wf = true → decode (encode i ++ rest) = .instr i rest

/-- Whatever bytes decode to an instruction are that instruction's encoding, and it is well formed (rule R146, the converse; rule
R145). -/
def Obligations.DecodedIsWellFormedAndReencodes : Prop :=
  ∀ (bs rest : List Byte) (i : Instr), decode bs = .instr i rest → i.wf = true ∧ encode i ++ rest = bs

/-- Rule R65: the chunk of a tag, by its signed value. -/
def Obligations.TagDecidesChunk : Prop :=
  ∀ (lo hi : Byte) (rest : List Byte),
    (runOfTag (tagOfBytes lo hi) = 0 → decode (lo :: hi :: rest) = .instr .endFrame rest) ∧
    (∀ p : List Byte, 1 ≤ runOfTag (tagOfBytes lo hi) → runOfTag (tagOfBytes lo hi) ≤ 16 →
      (p.length : Int) = runOfTag (tagOfBytes lo hi) →
      ∃ i h, decode (lo :: hi :: (p ++ rest)) = .instr i rest ∧ chunkOf i = some (.literal p h)) ∧
    (∀ b : Byte, -254 ≤ runOfTag (tagOfBytes lo hi) → runOfTag (tagOfBytes lo hi) ≤ -1 →
      ∃ (i : Instr) (count : Nat) (h : _), decode (lo :: hi :: b :: rest) = .instr i rest ∧ chunkOf i = some (.rep b count h) ∧
        (count : Int) = -runOfTag (tagOfBytes lo hi) + 1 ∧ 2 ≤ count ∧ count ≤ 255)

/-- A few wire forms of 95_test_vectors.md decode to the chunks they stand for. -/
def Obligations.SampleWireFormsDecode : Prop :=
  decode [0x00, 0x00] = .instr .endFrame [] ∧
  decode [0x01, 0x00, 0x09] = .instr (.lit1 [0x09]) [] ∧
  decode [0xFF, 0xFF, 0x05] = .instr (.rep2To129 2 0x05) [] ∧
  decode [0x02, 0xFF, 0x00] = .instr (.rep254To255 255 0x00) [] ∧
  decode [0x11, 0x00] = .instr (.reserved13 0x0011) []

/-- Rule R130: the lengths of the serialized forms, their concatenation, and that `Repeat(b, 1)` and `Literal([b])` share one and no
other two chunks do. -/
def Obligations.SerializedFormsLengthAndInjectivity : Prop :=
  (ser .endMark).length = 2 ∧
  (∀ bytes h, (ser (.literal bytes h)).length = 2 + bytes.length) ∧
  (∀ b k h, (ser (.rep b k h)).length = 3) ∧
  (∀ cs c, serAll (c :: cs) = ser c ++ serAll cs) ∧ serAll [] = [] ∧
  (∀ b h h', ser (.rep b 1 h) = ser (.literal [b] h')) ∧
  (∀ c c' : Chunk, ser c = ser c' →
    c = c' ∨ ∃ b h h', (c = .rep b 1 h ∧ c' = .literal [b] h') ∨ (c = .literal [b] h' ∧ c' = .rep b 1 h))

/-- The size of a serialized frame (rule R133): `2 * nl + Ll + 3 * nr + 2` bytes, where `Ll` bytes are in the `nl` literals and `nr`
chunks are repeats. -/
def Obligations.SerializedFrameSize : Prop :=
  ∀ cs : List Chunk, (∀ c, c ∈ cs → c ≠ .endMark) →
    (serAll (cs ++ [.endMark])).length =
      2 * cs.countP Chunk.isLiteral + ((cs.filter Chunk.isLiteral).map Chunk.size).sum +
        3 * cs.countP (fun c => !c.isLiteral) + 2

/-! ## The instructions: END, LIT1 to LIT16, the REP rows, the RESERVED rows -/

/-- Rule R114: `END` with the cursor at `L` completes: it commits `DST` to `RXB`, puts the cursor back, clears the first-frame flag
and raises `frame_done`; nothing else changes. -/
def Obligations.EndCommitsFullFrame : Prop :=
  ∀ s : State, s.dec.fault = .none → s.dec.cursor = s.params.decL →
    ∃ t, exec .endFrame s = .next t ∧
      (∀ i, i < s.params.decL → memRead t .rxb i = memRead s .dst i) ∧
      (∀ i, s.params.decL ≤ i → memRead t .rxb i = memRead s .rxb i) ∧
      t.dec.cursor = 0 ∧ t.dec.first = false ∧ t.events = s.events ++ [.frameDone] ∧
      (∀ i, memValue t .dst i = memValue s .dst i) ∧
      t.dec.fault = .none ∧ t.dec.des = s.dec.des ∧ t.dec.epoch = s.dec.epoch ∧ SameOutsideReceiver s t

/-- Rule R115: `END` short of `L` takes the fault `LENGTH_MISMATCH`, code 1, and changes nothing else. -/
def Obligations.EndShortOfFrameFaults : Prop :=
  ∀ s : State, s.dec.fault = .none → s.dec.cursor ≠ s.params.decL →
    exec .endFrame s = .next { s with dec := { s.dec with fault := .lengthMismatch } } ∧
    decFaultLevel { s with dec := { s.dec with fault := .lengthMismatch } } = 1

/-- Rule R111, for `LIT1` to `LIT16`: a literal that fits completes: it writes its raw bytes from the cursor on and advances the
cursor, and nothing else changes; one that does not fit takes the fault `OVERRUN` and changes nothing else. -/
def Obligations.LiteralWritesAtCursor : Prop :=
  ∀ (i : Instr) (p : List Byte) (h : _) (s : State), chunkOf i = some (.literal p h) → s.dec.fault = .none →
    (s.dec.cursor + p.length ≤ s.params.decL →
      ∃ t, exec i s = .next t ∧
        (∀ (k : Nat) (hk : k < p.length), memValue t .dst (s.dec.cursor + k) =
          some (if s.params.decXorEn = true ∧ s.dec.first = false then p[k] ^^^ memRead s .rxb (s.dec.cursor + k) else p[k])) ∧
        t.dec.cursor = s.dec.cursor + p.length ∧
        (∀ j, j < s.dec.cursor ∨ s.dec.cursor + p.length ≤ j → memValue t .dst j = memValue s .dst j) ∧
        (∀ j, memRead t .rxb j = memRead s .rxb j) ∧
        t.dec.first = s.dec.first ∧ t.dec.fault = .none ∧ t.dec.des = s.dec.des ∧ t.dec.epoch = s.dec.epoch ∧
        t.events = s.events ∧ SameOutsideReceiver s t) ∧
    (s.params.decL < s.dec.cursor + p.length →
      exec i s = .next { s with dec := { s.dec with fault := .overrun } })

/-- Rule R112, for the seven `REP` rows: a repeat that fits completes: it writes its byte's raw value at each position and advances
the cursor, and nothing else changes; one that does not fit takes the fault `OVERRUN`. Over the chunk-level interface a count of 1
acts as a literal of one byte. -/
def Obligations.RepeatWritesAtCursor : Prop :=
  (∀ (i : Instr) (b : Byte) (k : Nat) (h : _) (s : State), chunkOf i = some (.rep b k h) → s.dec.fault = .none →
    (s.dec.cursor + k ≤ s.params.decL →
      ∃ t, exec i s = .next t ∧
        (∀ j, j < k → memValue t .dst (s.dec.cursor + j) =
          some (if s.params.decXorEn = true ∧ s.dec.first = false then b ^^^ memRead s .rxb (s.dec.cursor + j) else b)) ∧
        t.dec.cursor = s.dec.cursor + k ∧
        (∀ j, j < s.dec.cursor ∨ s.dec.cursor + k ≤ j → memValue t .dst j = memValue s .dst j) ∧
        (∀ j, memRead t .rxb j = memRead s .rxb j) ∧
        t.dec.first = s.dec.first ∧ t.dec.fault = .none ∧ t.dec.des = s.dec.des ∧ t.dec.epoch = s.dec.epoch ∧
        t.events = s.events ∧ SameOutsideReceiver s t) ∧
    (s.params.decL < s.dec.cursor + k →
      exec i s = .next { s with dec := { s.dec with fault := .overrun } })) ∧
  (∀ (b : Byte) (h h' : _) (s : State), deliver (.rep b 1 h) s = deliver (.literal [b] h') s)

/-- Rule R113: a chunk that would pass `L` takes the fault `OVERRUN`, code 2, and writes nothing, on every row that carries payload
and over the chunk-level interface; the sum is exact, and one that reaches `L` is no overrun. -/
def Obligations.OverrunWritesNothing : Prop :=
  ∀ (c : Chunk) (s : State), c ≠ .endMark → s.dec.fault = .none →
    (s.params.decL < s.dec.cursor + c.size →
      deliver c s = { s with dec := { s.dec with fault := .overrun } } ∧ decFaultLevel (deliver c s) = 2 ∧
      ∀ i, chunkOf i = some c → exec i s = .next { s with dec := { s.dec with fault := .overrun } }) ∧
    (s.dec.cursor + c.size ≤ s.params.decL → (deliver c s).dec.fault = .none)

/-- `RESERVED.0` to `RESERVED.21` (rules R141, R163, R167): each takes the fault `MALFORMED_TAG`, which is its whole effect. -/
def Obligations.ReservedTagTakesFault : Prop :=
  ∀ (i : Instr) (s : State), i.wf = true → chunkOf i = none → s.dec.fault = .none →
    exec i s = .next { s with dec := { s.dec with fault := .malformedTag } } ∧
    decFaultLevel { s with dec := { s.dec with fault := .malformedTag } } = 3

/-- While a fault is held the receiving half accepts nothing: no instruction of any row, over either interface, and no byte
(rules R110, R135, R168). That the model then answers the same state is log entry 18. -/
def Obligations.FaultedReceiverAcceptsNothing : Prop :=
  ∀ s : State, s.dec.fault ≠ .none →
    (∀ i, i.wf = true → exec i s = .next s) ∧ (∀ c, deliver c s = s) ∧ decTurn s = .next s ∧ rxReady s = false

/-! ## The deserializer -/

/-- Rule R136: the low tag byte. -/
def Obligations.LowTagByteAccepted : Prop :=
  ∀ (s : State) (x : Byte) (rest : List Byte), s.Offers x rest → s.dec.des.phase = .tag0 →
    ∃ tag : TagWord, tagLow tag = x ∧ tagHigh tag = tagHigh s.dec.des.tag ∧
      decTurn s = .next ((s.setBytes rest).setDes { s.dec.des with tag := tag, phase := .tag1 })

/-- The high tag byte completes the tag and its signed value decides (rule R137). That `DES_TAG` keeps the tag of `End` in phase `TAG0`
is the model's choice (log entry 24). -/
def Obligations.HighTagByteDecides : Prop :=
  ∀ (s : State) (x : Byte) (rest : List Byte), s.Offers x rest → s.dec.des.phase = .tag1 →
    ∃ tag : TagWord, tagLow tag = tagLow s.dec.des.tag ∧ tagHigh tag = x ∧
      decTurn s =
        if runOfTag tag = 0 then
          exec .endFrame ((s.setBytes rest).setDes { s.dec.des with tag := tag, phase := .tag0 })
        else if 1 ≤ runOfTag tag ∧ runOfTag tag ≤ 16 then
          .next ((s.setBytes rest).setDes { s.dec.des with tag := tag, cnt := 0, phase := .lit })
        else if -254 ≤ runOfTag tag ∧ runOfTag tag ≤ -1 then
          .next ((s.setBytes rest).setDes { s.dec.des with tag := tag, phase := .rep })
        else .next (((s.setBytes rest).setDes { s.dec.des with tag := tag }).setFault .malformedTag)

/-- A literal's payload byte; the last one delivers the literal (rule R138). That `DES_TAG` then keeps the literal's tag is the model's
choice (log entry 24), and so is that the entries of `DES_LBUF` not written keep what they held (log entry 6). -/
def Obligations.LiteralPayloadByteAccepted : Prop :=
  ∀ (s : State) (x : Byte) (rest : List Byte) (n : Nat), s.Offers x rest → s.dec.des.phase = .lit →
    n = (s.dec.des.tag.extractLsb' 0 5).toNat → 1 ≤ n → n ≤ 16 → s.dec.des.cnt < n →
    ∃ lbuf : Vector Byte 16, (∀ k : Fin 16, lbuf[k] = if k.val = s.dec.des.cnt then x else s.dec.des.lbuf[k]) ∧
      (s.dec.des.cnt + 1 < n →
        decTurn s = .next ((s.setBytes rest).setDes { s.dec.des with lbuf := lbuf, cnt := s.dec.des.cnt + 1 })) ∧
      (s.dec.des.cnt + 1 = n →
        ∃ i h, chunkOf i = some (.literal (lbuf.toList.take n) h) ∧
          decTurn s = exec i ((s.setBytes rest).setDes { s.dec.des with lbuf := lbuf, cnt := 0, phase := .tag0 }))

/-- The repeat byte delivers the repeat, of the count its tag gives (rule R139). That `DES_TAG` then keeps the repeat's tag is the
model's choice (log entry 24). -/
def Obligations.RepeatByteAccepted : Prop :=
  ∀ (s : State) (x : Byte) (rest : List Byte), s.Offers x rest → s.dec.des.phase = .rep →
    -254 ≤ runOfTag s.dec.des.tag → runOfTag s.dec.des.tag ≤ -1 →
    ∃ (i : Instr) (k : Nat) (h : _), chunkOf i = some (.rep x k h) ∧ (k : Int) = 1 - runOfTag s.dec.des.tag ∧
      k = 257 - (tagLow s.dec.des.tag).toNat ∧ 2 ≤ k ∧ k ≤ 255 ∧
      decTurn s = exec i ((s.setBytes rest).setDes { s.dec.des with phase := .tag0 })

/-- Rule R141: a completed tag that is none of `0x0000`, `0x0001 .. 0x0010`, `0xFF02 .. 0xFFFF`: the fault, code 3, with the tag kept,
the phase left at `TAG1`, and nothing else changed but the channel, which the tag byte has left. -/
def Obligations.ReservedTagOnTheWireFaults : Prop :=
  ∀ (s : State) (x : Byte) (rest : List Byte), s.Offers x rest → s.dec.des.phase = .tag1 →
    (tagOfBytes (tagLow s.dec.des.tag) x).toNat ≠ 0 →
    ¬(1 ≤ (tagOfBytes (tagLow s.dec.des.tag) x).toNat ∧ (tagOfBytes (tagLow s.dec.des.tag) x).toNat ≤ 0x0010) →
    ¬(0xFF02 ≤ (tagOfBytes (tagLow s.dec.des.tag) x).toNat ∧ (tagOfBytes (tagLow s.dec.des.tag) x).toNat ≤ 0xFFFF) →
    decTurn s = .next
      { s with
        chan := { s.chan with bytes := rest }
        dec := { s.dec with
          fault := .malformedTag
          des := { s.dec.des with tag := tagOfBytes (tagLow s.dec.des.tag) x, phase := .tag1 } } } ∧
      DecFault.malformedTag.code = 3

/-! ## A step runs the decoded instruction -/

/-- The byte that completes an instruction: the step is `exec` of it on the state in which the byte is gone from the channel and the
deserializer has made its own writes (rules R135, R140), with the move used up if it was scheduled. That DEC moves when nothing is
scheduled is the model's choice (log entry 11). -/
def Obligations.StepRunsCompletedInstr : Prop :=
  ∀ (s : State) (x : Byte) (rest : List Byte) (d : Des) (i : Instr),
    s.Offers x rest → desAccept s.dec.des x = (d, some i) →
    (∀ ms, s.schedule = .decTurn :: ms →
      step s = exec i { s with schedule := ms, chan := { s.chan with bytes := rest }, dec := { s.dec with des := d } }) ∧
    (s.schedule = [] →
      step s = exec i { s with chan := { s.chan with bytes := rest }, dec := { s.dec with des := d } })

/-- The bytes of a well-formed instruction, delivered one a step from phase `TAG0`, run exactly that instruction, whole, at the last
byte: nothing but the deserializer, the channel and the schedule, a field of the model's own (log entry 11), changes before (rules R135, R140,
R144). -/
def Obligations.BytesOfInstrRunIt : Prop :=
  ∀ (s : State) (i : Instr) (rest : List Byte) (ms : List Move), i.wf = true →
    s.dec.des.phase = .tag0 → s.dec.des.cnt = 0 → s.dec.fault = .none → s.chan.rxValid = true →
    s.chan.bytes = encode i ++ rest → s.schedule = List.replicate (encode i).length .decTurn ++ ms →
    ∃ d : Des, d.cnt = 0 ∧ d.phase = (if chunkOf i = none then .tag1 else .tag0) ∧
      Host.Core.run Sys2Proof.core (encode i).length s =
        exec i { s with schedule := ms, chan := { s.chan with bytes := rest }, dec := { s.dec with des := d } }

/-- The instruction a table word decodes to is the one the next step runs, from the state in which the host places it; the placing
touches the deserializer, the fault register and the channel alone. -/
def Obligations.PlacedWordRunsNext : Prop :=
  ∀ (s : State) (nbits w : Nat) (i : Instr), decodeTableWord nbits w = some i →
    ∃ d : Des, step (s.withFetchWord nbits w) =
      exec i { s with chan := { s.chan with rxValid := true }, dec := { s.dec with fault := .none, des := d } }

/-! ## The sending half -/

/-- Rule R81: `enc_start` begins an encode when none is in progress, and is ignored otherwise. The equations leave `starts`, the
model's own count (log entry 22), free. -/
def Obligations.StartBeginsEncode : Prop :=
  ∀ s : State, ∃ t, makeMove .encStart s = .next t ∧
    (s.enc.busy = false → t = { s with enc := { s.enc with busy := true, idx := 0 }, starts := t.starts }) ∧
    (s.enc.busy = true → t = { s with starts := t.starts })

/-- Rule R82: `XDE.BYTE(i)`. -/
def Obligations.ScanByteGivesDeltaAndUpdatesBaseline : Prop :=
  ∀ s : State,
    (xdeByte s).2 =
      (if s.params.encXorEn = true ∧ s.enc.first = false then memRead s .frame s.enc.idx ^^^ memRead s .txb s.enc.idx
       else memRead s .frame s.enc.idx) ∧
    memRead (xdeByte s).1 .txb s.enc.idx = memRead s .frame s.enc.idx ∧
    (∀ j, j ≠ s.enc.idx → memRead (xdeByte s).1 .txb j = memRead s .txb j) ∧
    (xdeByte s).1 = { s with enc := { s.enc with txb := (xdeByte s).1.enc.txb, idx := s.enc.idx + 1 } }

/-- Rule R91: the first byte of a frame is buffered and nothing is emitted. -/
def Obligations.FirstByteIsBuffered : Prop :=
  ∀ (w : Byte) (e : Enc), e.mode = .idle →
    (rlePush w e).2 = none ∧ (rlePush w e).1.pending = [w] ∧
    (rlePush w e).1 = { e with lbuf := (rlePush w e).1.lbuf, llen := 1, prev := w, mode := .acc }

/-- Rule R92: a differing byte extends the literal. -/
def Obligations.DifferingByteExtendsLiteral : Prop :=
  ∀ (w : Byte) (e : Enc), e.mode = .acc → w ≠ e.prev → e.llen ≤ 14 →
    (rlePush w e).2 = none ∧ (rlePush w e).1.pending = e.pending ++ [w] ∧
    (rlePush w e).1 = { e with lbuf := (rlePush w e).1.lbuf, llen := e.llen + 1, prev := w }

/-- Rule R93: the byte that brings the literal to its cap sends it at once. -/
def Obligations.LiteralCapEmits : Prop :=
  ∀ (w : Byte) (e : Enc), e.mode = .acc → w ≠ e.prev → e.llen = 15 →
    (∃ h, (rlePush w e).2 = some (.literal (e.pending ++ [w]) h)) ∧ (e.pending ++ [w]).length = 16 ∧
    (rlePush w e).1.pending = [] ∧ (rlePush w e).1 = { e with lbuf := (rlePush w e).1.lbuf, llen := 0, prev := w }

/-- Rule R94: an equal byte withdraws the previous one from the literal and opens a run of two. -/
def Obligations.EqualByteOpensRunOfTwo : Prop :=
  ∀ (w : Byte) (e : Enc), e.mode = .acc → w = e.prev → 1 ≤ e.llen → e.llen ≤ 15 →
    (2 ≤ e.llen → ∃ h, (rlePush w e).2 = some (.literal e.pending.dropLast h)) ∧
    (e.llen = 1 → (rlePush w e).2 = none) ∧ e.pending.dropLast.length = e.llen - 1 ∧
    (rlePush w e).1.pending = [] ∧
    (rlePush w e).1 = { e with lbuf := (rlePush w e).1.lbuf, llen := 0, cnt := 2, mode := .rep }

/-- Rule R95: an equal byte right after a cap emission opens a run of one. -/
def Obligations.EqualByteAfterCapOpensRunOfOne : Prop :=
  ∀ (w : Byte) (e : Enc), e.mode = .acc → w = e.prev → e.llen = 0 →
    (rlePush w e).2 = none ∧ (rlePush w e).1 = { e with cnt := 1, mode := .rep }

/-- Rule R96: an equal byte extends the run; the 255th sends it and leaves a run of none on the same byte. -/
def Obligations.EqualByteExtendsRun : Prop :=
  ∀ (w : Byte) (e : Enc), e.mode = .rep → w = e.prev →
    (e.cnt < 254 → (rlePush w e).2 = none ∧ (rlePush w e).1 = { e with cnt := e.cnt + 1 }) ∧
    (e.cnt = 254 → (∃ h, (rlePush w e).2 = some (.rep e.prev 255 h)) ∧ (rlePush w e).1 = { e with cnt := 0 })

/-- Rule R97: a differing byte sends the run if it is not empty and becomes the first byte of a new literal. -/
def Obligations.DifferingByteClosesRun : Prop :=
  ∀ (w : Byte) (e : Enc), e.mode = .rep → w ≠ e.prev → e.cnt ≤ 254 →
    (1 ≤ e.cnt → ∃ h, (rlePush w e).2 = some (.rep e.prev e.cnt h)) ∧ (e.cnt = 0 → (rlePush w e).2 = none) ∧
    (rlePush w e).1.pending = [w] ∧
    (rlePush w e).1 = { e with lbuf := (rlePush w e).1.lbuf, llen := 1, cnt := 0, prev := w, mode := .acc }

/-- A step of ENC below `L`, with the channel ready: `XDE.BYTE`, then `RLE.PUSH` of its delta byte, then the serialized form of the
chunk emitted, if any, behind the bytes in flight (rules R80, R84). -/
def Obligations.ScanStepSendsWhatPushEmits : Prop :=
  ∀ s : State, s.enc.busy = true → EncOk s.params.encL s.enc → s.enc.idx < s.params.encL → s.chan.txReady = true →
    ∃ t, encTurn s = .next t ∧
      t.enc = (rlePush (xdeByte s).2 (xdeByte s).1.enc).1 ∧
      t.chan = { s.chan with
        bytes := s.chan.bytes ++ (match (rlePush (xdeByte s).2 (xdeByte s).1.enc).2 with | some c => ser c | none => []) } ∧
      t.events = s.events ∧ SameOutsideSender s t

/-- Rule R99: with the scan over and the channel ready, `RLE.FLUSH` sends the pending item if it is not empty, then `End`, puts the
registers back and raises `enc_done`: one turn of ENC for each chunk. The field `ending` is the model's own (log entry 12), and that
`ENC_PREV` keeps the last delta byte is the model's choice (log entry 24). -/
def Obligations.FlushEndsFrame : Prop :=
  ∀ s : State, s.enc.busy = true → EncOk s.params.encL s.enc → s.enc.idx = s.params.encL → s.chan.txReady = true →
    s.enc.ending = false →
    ∃ (c : Option Chunk) (t : State),
      (s.enc.mode = .acc ∧ 1 ≤ s.enc.llen → ∃ h, c = some (.literal s.enc.pending h)) ∧
      (s.enc.mode = .rep ∧ 1 ≤ s.enc.cnt → ∃ h, c = some (.rep s.enc.prev s.enc.cnt h)) ∧
      (¬(s.enc.mode = .acc ∧ 1 ≤ s.enc.llen) → ¬(s.enc.mode = .rep ∧ 1 ≤ s.enc.cnt) → c = none) ∧
      (c = none → encTurn s = .next t) ∧ (c ≠ none → ∃ u, encTurn s = .next u ∧ encTurn u = .next t) ∧
      t.chan = { s.chan with bytes := s.chan.bytes ++ serAll c.toList ++ ser .endMark } ∧
      t.enc = { s.enc with
        lbuf := t.enc.lbuf, llen := 0, cnt := 0, mode := .idle, idx := 0, first := false, busy := false } ∧
      t.events = s.events ++ [.encDone] ∧ SameOutsideSender s t

/-- While the channel is not ready a turn of ENC that would send waits, and nothing changes; at the end of a scan every turn sends
(rules R105, R131). The channel may accept the flush's pending chunk and then not be ready for `End`: the registers keep what they
hold, ENC stays busy, and `enc_done` is not raised. That the wait at `End` is a field of the state is the model's choice (log entry
12). -/
def Obligations.NotReadyChannelHoldsSender : Prop :=
  ∀ s : State, s.enc.busy = true → EncOk s.params.encL s.enc →
    (s.chan.txReady = false →
      (s.enc.idx < s.params.encL → (rlePush (xdeByte s).2 (xdeByte s).1.enc).2 ≠ none → encTurn s = .next s) ∧
      (s.enc.idx = s.params.encL → encTurn s = .next s)) ∧
    (s.chan.txReady = true → s.enc.idx = s.params.encL → s.enc.ending = false → ∀ c, flushPending s.enc = some c →
      ∃ u, encTurn s = .next u ∧
        u = { s with
          enc := { s.enc with ending := true }
          chan := { s.chan with bytes := s.chan.bytes ++ ser c } } ∧
        encTurn (u.setTxReady false) = .next (u.setTxReady false))

/-- The caps are never passed: from a state that meets the invariant a step never stops, except for a host's write of `FRAME` (the
model's choice, log entries 14 and 15), and every byte pushed is in exactly one emitted chunk, each legal by its type, or in the
pending item (rules R32(e), R32(f), R104). -/
def Obligations.CapOverflowUnreachable : Prop :=
  ∀ s : State, s.Inv →
    (∀ f, step s = .fault f → ∃ index byte, s.schedule.head? = some (.writeFrame index byte) ∧ s.params.encL ≤ index) ∧
    (∀ r, step s = .refused r → ∃ index byte, s.schedule.head? = some (.writeFrame index byte) ∧ s.enc.busy = true) ∧
    (s.enc.idx < s.params.encL → ∀ w,
      expandAll (rlePush w s.enc).2.toList ++ (rlePush w s.enc).1.pendingBytes = s.enc.pendingBytes ++ [w]) ∧
    (rleFlushNext s.enc).2.expand ++ (rleFlushNext s.enc).1.pendingBytes = s.enc.pendingBytes

/-! ## The stages over whole frames -/

/-- Rule R100: for every `W`, the chunks are zero or more legal `Literal` and `Repeat` chunks and then one `End`, they expand to
exactly `W`, and their sizes sum to its length. -/
def Obligations.EncodedChunksExpandToInput : Prop :=
  ∀ ws : List Byte, ∃ cs : List Chunk, rleEncode ws = cs ++ [.endMark] ∧
    (∀ c, c ∈ cs → c ≠ .endMark) ∧ expandAll cs = ws ∧ (cs.map Chunk.size).sum = ws.length

/-- Uniform frames (rule R102(b), (d)): `ceil(L/255)` repeats of the byte, all but the last of count 255. -/
def Obligations.UniformFrameIsFullRepeats : Prop :=
  ∀ (b : Byte) (len : Nat), 2 ≤ len →
    ∃ h h', rleEncode (List.replicate len b) =
      List.replicate ((len - 1) / 255) (.rep b 255 h') ++ [.rep b (len - 255 * ((len - 1) / 255)) h, .endMark]

/-- A frame in which every byte differs from the one before it (rule R102(c)): `ceil(L/16)` literals, all but the last of 16 bytes. -/
def Obligations.AlternatingFrameIsFullLiterals : Prop :=
  ∀ ws : List Byte, (∀ i (h : i + 1 < ws.length), ws[i + 1] ≠ ws[i]) →
    ∃ cs : List Chunk, rleEncode ws = cs ++ [.endMark] ∧ (∀ c, c ∈ cs → c.isLiteral = true) ∧ expandAll cs = ws ∧
      cs.length = (ws.length + 15) / 16 ∧ ∀ k (h : k + 1 < cs.length), cs[k].size = 16

/-- A frame equal to the baseline, with XOR active, is encoded as repeats of zero (rules R87(a), R102(d)). -/
def Obligations.UnchangedFrameIsZeroRepeats : Prop :=
  ∀ s : State, encXorActive s = true → 2 ≤ s.params.encL →
    (∀ i, i < s.params.encL → memRead s .frame i = memRead s .txb i) →
    ∃ h h', encodeChunks s =
      List.replicate ((s.params.encL - 1) / 255) (.rep 0x00 255 h') ++
        [.rep 0x00 (s.params.encL - 255 * ((s.params.encL - 1) / 255)) h, .endMark]

/-- The first frame is sent raw, whatever the strap and the baseline say (rule R85). -/
def Obligations.FirstFrameIsSentRaw : Prop :=
  ∀ s : State, s.enc.first = true → encodeChunks s = rleEncode (readAll s .frame)

/-- The steps of one encode, with the channel ready, send the serialized form of `Encode(F)` and leave in `TXB` and `ENC_FIRST` what
the function gives: `TXB` is the frame (rules R80, R86, R101). A scan of `L` turns and a flush of at most two; a turn beyond the last
chunk changes nothing. The schedule, the record of the events, the count of starts and `ending` are the model's own fields (log
entries 11, 16, 22, 12). -/
def Obligations.EncodeStepsSendEncodedFrame : Prop :=
  ∀ (s : State) (ms : List Move), s.enc.busy = false → EncOk s.params.encL s.enc → s.chan.txReady = true →
    s.schedule = .encStart :: List.replicate (s.params.encL + 2) .encTurn ++ ms →
    ∃ t, Host.Core.run Sys2Proof.core (s.params.encL + 3) s = .next t ∧
      t.chan = { s.chan with bytes := s.chan.bytes ++ serAll (encodeFrame s).chunks } ∧
      readAll t .txb = (encodeFrame s).txb ∧ t.enc.first = (encodeFrame s).first ∧
      (∀ i, i < s.params.encL → memRead t .txb i = memRead s .frame i) ∧
      (∀ i, s.params.encL ≤ i → memRead t .txb i = memRead s .txb i) ∧
      t.enc.first = false ∧ t.enc.busy = false ∧ t.enc.mode = .idle ∧ t.enc.llen = 0 ∧ t.enc.cnt = 0 ∧ t.enc.idx = 0 ∧
      t.enc.ending = false ∧ t.events = s.events ++ [.encDone] ∧ t.starts = s.starts + 1 ∧ t.params = s.params ∧
      t.frame = s.frame ∧ t.dec = s.dec ∧ t.schedule = ms

/-- Rule R118: the receiving half on one well-formed frame of chunks. -/
def Obligations.WellFormedFrameDecodes : Prop :=
  ∀ (s : State) (cs : List Chunk), s.dec.fault = .none → s.dec.cursor = 0 →
    (∀ c, c ∈ cs → c ≠ .endMark) → (expandAll cs).length = s.params.decL →
    (∀ i (h : i < (expandAll cs).length), memValue (deliverAll (cs ++ [.endMark]) s) .dst i =
      some (if decXorActive s = true then (expandAll cs)[i] ^^^ memRead s .rxb i else (expandAll cs)[i])) ∧
    (∀ i, i < s.params.decL →
      memRead (deliverAll (cs ++ [.endMark]) s) .rxb i = memRead (deliverAll (cs ++ [.endMark]) s) .dst i) ∧
    (deliverAll (cs ++ [.endMark]) s).dec.cursor = 0 ∧ (deliverAll (cs ++ [.endMark]) s).dec.first = false ∧
    (deliverAll (cs ++ [.endMark]) s).dec.fault = .none ∧
    (deliverAll (cs ++ [.endMark]) s).events = s.events ++ [.frameDone]

/-- Chunks sent through the serializer, the channel and the deserializer, a byte a step, do what they do over the chunk-level
interface, whether or not one of them faults there (rules R146, R171, R195). Without a fault all their bytes are taken; a fault comes
with the same code, and the bytes behind the faulting chunk stay in the channel. The schedule is a field of the model's own (log
entry 11). -/
def Obligations.WireDeliversLikeChunks : Prop :=
  ∀ (s : State) (cs : List Chunk) (rest : List Byte) (ms : List Move),
    s.dec.des.phase = .tag0 → s.dec.des.cnt = 0 → s.dec.fault = .none → s.chan.rxValid = true →
    s.chan.bytes = serAll cs ++ rest → s.schedule = List.replicate (serAll cs).length .decTurn ++ ms →
    ∃ (d : Des) (bytes : List Byte), d.phase = .tag0 ∧ d.cnt = 0 ∧
      Host.Core.run Sys2Proof.core (serAll cs).length s =
        .next { deliverAll cs s with
          schedule := ms, chan := { s.chan with bytes := bytes }, dec := { (deliverAll cs s).dec with des := d } } ∧
      ((deliverAll cs s).dec.fault = .none → bytes = rest) ∧
      ((deliverAll cs s).dec.fault ≠ .none → ∃ before c behind, cs = before ++ c :: behind ∧
        (deliverAll before s).dec.fault = .none ∧ (deliver c (deliverAll before s)).dec.fault = (deliverAll cs s).dec.fault ∧
        bytes = serAll behind ++ rest)

/-- Rule R195, (a) and (b): every move of the wire-level composition is matched in the chunk-level composition, by the same move or by
none, so the two stay at the same point, with the same fault, whatever the moves and however many the frames. A host's reset of the
receiving half and its emptying of the channel come at a chunk boundary. -/
def Obligations.ChunkLevelFollowsWire : Prop :=
  ∀ (s t : State) (c : ChunkSystem) (m : Move), s.Inv → WireMatchesChunks s c →
    (m = .decReset ∨ m = .emptyChannel → s.dec.des.phase = .tag0) → makeMove m s = .next t →
    ∃ c', WireMatchesChunks t c' ∧ (c' = c ∨ chunkMove m c = .next c')

/-- Rule R195, (b) and (c): every move of the chunk-level composition is matched in the direct composition, by the same move or by
none, so the two stay at the same point, the direct one ahead by the chunks in flight. A host's reset of the receiving half and its
emptying of the channel come with nothing in flight and no fault. -/
def Obligations.DirectFollowsChunkLevel : Prop :=
  ∀ (c c' : ChunkSystem) (d : State) (m : Move), ChunksMatchDirect c d →
    (m = .decReset ∨ m = .emptyChannel → c.chunks = [] ∧ d.dec.fault = .none) → chunkMove m c = .next c' →
    ∃ d', ChunksMatchDirect c' d' ∧ (d' = d ∨ directMove m d = .next d')

/-- Rule R195 on one frame from a frame boundary, whether or not the halves agree: the three compositions leave the same receiving half
but for the deserializer, so the same `DST`, `RXB`, `DEC_FIRST` and fault, never `MALFORMED_TAG`; without a fault they leave the same
sending half, with the `TXB` and `ENC_FIRST` of the function, and nothing in flight. That the direct composition raises `frame_done`
before `enc_done` is rule R195's (c); the schedules and the records of the events are the model's own (log entries 11, 16). -/
def Obligations.ThreeCompositionsAgree : Prop :=
  ∀ (s : State) (ms : List Move), s.AtBoundary → s.chan.txReady = true → s.chan.rxValid = true →
    let encode : List Move := .encStart :: List.replicate (s.params.encL + 2) .encTurn
    let bytes := (serAll (encodeFrame s).chunks).length
    let chunks := (encodeFrame s).chunks.length
    ∃ (t : State) (c : ChunkSystem) (d : State),
      Host.Core.run Sys2Proof.core (s.params.encL + 3 + bytes)
        (s.setSchedule (encode ++ List.replicate bytes .decTurn ++ ms)) = .next t ∧
      Host.Core.run chunkCore (s.params.encL + 3 + chunks)
        { sys := s.setSchedule (encode ++ List.replicate chunks .decTurn ++ ms), chunks := [] } = .next c ∧
      Host.Core.run directCore (s.params.encL + 3) (s.setSchedule (encode ++ ms)) = .next d ∧
      c.sys.dec = (deliverAll (encodeFrame s).chunks s).dec ∧ d.dec = c.sys.dec ∧
      { t.dec with des := s.dec.des } = c.sys.dec ∧ t.dec.fault ≠ .malformedTag ∧
      (t.dec.fault = .none →
        t.enc = c.sys.enc ∧ c.sys.enc = d.enc ∧ t.enc.busy = false ∧
        readAll t .txb = (encodeFrame s).txb ∧ t.enc.first = (encodeFrame s).first ∧
        t.chan.bytes = [] ∧ t.dec.des.phase = .tag0 ∧ c.chunks = [] ∧
        t.events = s.events ++ [.encDone, .frameDone] ∧ c.sys.events = s.events ++ [.encDone, .frameDone] ∧
        d.events = s.events ++ [.frameDone, .encDone])

/-- Rule R119, the round trip, as steps of the machine: from a frame boundary with the halves in agreement, an encode and the delivery
of its bytes leave `DST`, `TXB` and `RXB` equal to the frame, and the machine at a frame boundary with the halves in agreement
again; after a good end of a run of `n` frames, it is the good end of one of `n + 1` (rule R196). The schedule, a field of the model's
own (log entry 11), here runs the encode before the delivery; the record of the events and the count of starts are the model's own too
(log entries 16, 22). -/
def Obligations.FrameRoundTrip : Prop :=
  ∀ (s : State) (ms : List Move), s.Synced → s.AtBoundary → s.chan.txReady = true → s.chan.rxValid = true →
    s.schedule = .encStart :: List.replicate (s.params.encL + 2) .encTurn ++
      List.replicate (serAll (encodeChunks s)).length .decTurn ++ ms →
    ∃ t, Host.Core.run Sys2Proof.core (s.params.encL + 3 + (serAll (encodeChunks s)).length) s = .next t ∧
      (∀ i, i < s.params.encL → memValue t .dst i = some (memRead s .frame i) ∧ memRead t .txb i = memRead s .frame i ∧
        memRead t .rxb i = memRead s .frame i) ∧
      t.Synced ∧ t.AtBoundary ∧ t.enc.first = false ∧ t.dec.first = false ∧
      t.events = s.events ++ [.encDone, .frameDone] ∧ t.frame = s.frame ∧ t.params = s.params ∧ t.schedule = ms ∧
      ∀ n, s.GoodEnd n → t.GoodEnd (n + 1)

/-! ## Reset and the hosts -/

/-- Rule R181, the values it gives: the sending half after its reset, from any state. -/
def Obligations.SenderResetValues : Prop :=
  ∀ s : State, ∃ t, makeMove .encReset s = .next t ∧
    (∀ i, memRead t .txb i = 0x00) ∧ t.enc.first = true ∧ t.enc.mode = .idle ∧ t.enc.cnt = 0 ∧ t.enc.llen = 0 ∧
    t.enc.idx = 0 ∧ t.enc.busy = false

/-- Rule R182, the values it gives: the receiving half after its reset, from any state. -/
def Obligations.ReceiverResetValues : Prop :=
  ∀ s : State, ∃ t, makeMove .decReset s = .next t ∧
    (∀ i, memRead t .rxb i = 0x00) ∧ t.dec.first = true ∧ t.dec.cursor = 0 ∧ t.dec.fault = .none ∧
    t.dec.des.phase = .tag0 ∧ t.dec.des.cnt = 0

/-- A reset of one half leaves `FRAME`, the channel, the parameters and the other half alone (rules R148, R183, R190). That it leaves
the record of the events, the count of starts and the schedule alone too is the model's own choice (log entries 16, 22, 11). -/
def Obligations.ResetTouchesOneHalf : Prop :=
  ∀ s : State,
    (∃ t, makeMove .encReset s = .next t ∧ t.frame = s.frame ∧ t.chan = s.chan ∧ t.params = s.params ∧ t.dec = s.dec ∧
      t.events = s.events ∧ t.starts = s.starts ∧ t.schedule = s.schedule) ∧
    (∃ t, makeMove .decReset s = .next t ∧ t.frame = s.frame ∧ t.chan = s.chan ∧ t.params = s.params ∧ t.enc = s.enc ∧
      t.events = s.events ∧ t.starts = s.starts ∧ t.schedule = s.schedule)

/-- The host writes one byte of `FRAME` between encodes; during one the model refuses by name (log entry 14), and at an index no
byte has it stops by name (log entry 15) (rules R40, R50, R186, R187). -/
def Obligations.HostWritesFrameBetweenEncodes : Prop :=
  ∀ (s : State) (index : Nat) (byte : Byte),
    (s.enc.busy = false → index < s.params.encL →
      ∃ t, makeMove (.writeFrame index byte) s = .next t ∧ memValue t .frame index = some byte ∧
        (∀ j, j ≠ index → memValue t .frame j = memValue s .frame j) ∧ t = { s with frame := t.frame }) ∧
    (s.enc.busy = true → makeMove (.writeFrame index byte) s = .refused .frameWriteWhileBusy) ∧
    (s.enc.busy = false → s.params.encL ≤ index → makeMove (.writeFrame index byte) s = .fault (.noSuchFrameIndex index))

/-- A half with nothing to do keeps all its state: DEC with no byte in flight or none offered, ENC with no encode in progress, and
the whole system right after reset (rules R143, R175, R184). At the end of a run, good or bad, no encode is in progress and, with
nothing scheduled, nothing changes (rules R81, R99, R196). That a half with nothing to do answers the same state is log entry 18, what
a step with nothing scheduled does is the model's choice (log entry 11), and so is the count of starts (log entry 22). -/
def Obligations.NothingToDoKeepsState : Prop :=
  (∀ s : State, s.chan.bytes = [] ∨ s.chan.rxValid = false → decTurn s = .next s) ∧
  (∀ s : State, s.enc.busy = false → encTurn s = .next s) ∧
  (∀ p : Params, step (State.resetWith p) = .next (State.resetWith p)) ∧
  (∀ (s : State) (n : Nat), s.Inv → s.RunOver n → s.enc.busy = false ∧ (s.schedule = [] → step s = .next s))

/-! ## The whole machine -/

/-- The invariant holds right after reset, whatever the parameters. -/
def Obligations.ResetMeetsInvariant : Prop := ∀ p : Params, (State.resetWith p).Inv

/-- Every step keeps the invariant (rules R25, R32, R33, R117): canonical buffers, the encoder's and the decoder's register ranges
and their relations, the cursor within `L`. -/
def Obligations.StepKeepsInvariant : Prop := ∀ s t : State, s.Inv → step s = .next t → t.Inv

/-- The counters fit in `CW` bits (rules R6, R84, R117). -/
def Obligations.CountersFitTheirWidth : Prop :=
  ∀ s : State, s.Inv → s.dec.cursor < 2 ^ Config.cursorWidth s.params.decL ∧ s.enc.idx < 2 ^ Config.cursorWidth s.params.encL

/-- `RXB` changes only at a successful `End`, which raises `frame_done`, and at a reset of the receiving half (rules R33(c), R52). -/
def Obligations.BaselineChangesOnlyAtFrameEnd : Prop :=
  ∀ s t : State, step s = .next t →
    t.dec.rxb = s.dec.rxb ∨ t.events = s.events ++ [.frameDone] ∨ s.schedule.head? = some .decReset

/-- A fault keeps the receiving half as it is and the channel's bytes where they are, until a reset of that half
(rules R33(d), R168). -/
def Obligations.FaultHoldsUntilReset : Prop :=
  ∀ s t : State, s.dec.fault ≠ .none → s.schedule.head? ≠ some .decReset → step s = .next t →
    t.dec = s.dec ∧ (s.schedule.head? ≠ some .emptyChannel → ∃ more, t.chan.bytes = s.chan.bytes ++ more)

/-- A byte of `DST` below the cursor stays as it is, and no byte changes in a step that does not advance the cursor, until a reset of
the receiving half (rules R51, R116). -/
def Obligations.DestinationStableWindow : Prop :=
  ∀ s t : State, step s = .next t → s.schedule.head? ≠ some .decReset →
    (∀ i, i < s.dec.cursor → memValue t .dst i = memValue s .dst i) ∧
    (t.dec.cursor ≤ s.dec.cursor → ∀ i, memValue t .dst i = memValue s .dst i)

/-- No step writes both halves, none changes the parameters, and only the host's write changes `FRAME` (rules R9, R35, R41). -/
def Obligations.EachStepWritesOneHalf : Prop :=
  ∀ s t : State, step s = .next t →
    (t.enc = s.enc ∨ t.dec = s.dec) ∧ t.params = s.params ∧
    (t.frame = s.frame ∨ ∃ index byte, s.schedule.head? = some (.writeFrame index byte))

/-- There is no path from DEC back to ENC: a step of ENC does the same whatever the receiving half holds (rule R3). -/
def Obligations.SenderIgnoresReceiver : Prop :=
  ∀ (s : State) (d : Dec),
    match encTurn s with
    | .next t => encTurn { s with dec := d } = .next { t with dec := d }
    | .fault f => encTurn { s with dec := d } = .fault f
    | .refused r => encTurn { s with dec := d } = .refused r

/-- A step of DEC depends on the sending half only through the channel (rules R3, R9). -/
def Obligations.ReceiverSeesSenderOnlyThroughChannel : Prop :=
  ∀ (s : State) (e : Enc) (m : Memory),
    match decTurn s with
    | .next t => decTurn { s with enc := e, frame := m } = .next { t with enc := e, frame := m }
    | .fault f => decTurn { s with enc := e, frame := m } = .fault f
    | .refused r => decTurn { s with enc := e, frame := m } = .refused r
end

