-- ==== Sys2Proof/Laws/Chunks.lean ====
section
/-! SUPPORT. The laws of chunks: which operands make one, what it contributes (30_encoding.md rules R60 to R63, R74). -/

namespace Sys2Proof.Machine

theorem Chunk.ofBytes_legal {bytes : List Byte} (h : 1 ≤ bytes.length ∧ bytes.length ≤ Config.litCap) :
    Chunk.ofBytes bytes = some (.literal bytes h) := by
  rw [Chunk.ofBytes, dif_pos h]

theorem Chunk.ofRun_legal {byte : Byte} {count : Nat} (h : 1 ≤ count ∧ count ≤ Config.repCap) :
    Chunk.ofRun byte count = some (.rep byte count h) := by
  rw [Chunk.ofRun, dif_pos h]

@[simp] theorem Chunk.ofBytes_nil : Chunk.ofBytes [] = none := rfl

@[simp] theorem Chunk.ofRun_zero (byte : Byte) : Chunk.ofRun byte 0 = none := rfl

/-- A literal made of bytes is the literal of those bytes. -/
theorem Chunk.ofBytes_eq_some {bytes : List Byte} {c : Chunk} (h : Chunk.ofBytes bytes = some c) :
    ∃ legal, c = .literal bytes legal := by
  unfold Chunk.ofBytes at h
  split at h
  · cases h
    exact ⟨_, rfl⟩
  · cases h

/-- A repeat made of a byte and a count is the repeat of those. -/
theorem Chunk.ofRun_eq_some {byte : Byte} {count : Nat} {c : Chunk} (h : Chunk.ofRun byte count = some c) :
    ∃ legal, c = .rep byte count legal := by
  unfold Chunk.ofRun at h
  split at h
  · cases h
    exact ⟨_, rfl⟩
  · cases h

/-- At most sixteen bytes lose nothing in being made a literal: none is made of no bytes (rule R61). -/
theorem Chunk.expand_ofBytes {bytes : List Byte} (h : bytes.length ≤ Config.litCap) :
    (Chunk.ofBytes bytes).toList.flatMap Chunk.expand = bytes := by
  match bytes, h with
  | [], _ => rfl
  | b :: bs, h =>
    rw [Chunk.ofBytes_legal ⟨by simp, h⟩]
    simp [Chunk.expand]

/-- At most 255 bytes lose nothing in being made a repeat: none is made of no bytes (rule R62). -/
theorem Chunk.expand_ofRun {byte : Byte} {count : Nat} (h : count ≤ Config.repCap) :
    (Chunk.ofRun byte count).toList.flatMap Chunk.expand = repBytes byte count := by
  match count, h with
  | 0, _ => rfl
  | n + 1, h =>
    rw [Chunk.ofRun_legal ⟨by omega, h⟩]
    simp [Chunk.expand]

/-- `n(c)` is the length of `expand(c)` (rule R74). -/
theorem Chunk.expand_length (c : Chunk) : c.expand.length = c.size := by
  cases c <;> simp [Chunk.expand, Chunk.size, repBytes]

end Sys2Proof.Machine
end

