-- ==== Sys2Proof/Laws/State.lean ====
section
/-! SUPPORT. What each update of the state leaves: one lemma per field per update. -/

namespace Sys2Proof.Machine

@[simp] theorem State.setCursor_params (s : State) (c : Nat) : (s.setCursor c).params = s.params := rfl
@[simp] theorem State.setCursor_frame (s : State) (c : Nat) : (s.setCursor c).frame = s.frame := rfl
@[simp] theorem State.setCursor_enc (s : State) (c : Nat) : (s.setCursor c).enc = s.enc := rfl
@[simp] theorem State.setCursor_chan (s : State) (c : Nat) : (s.setCursor c).chan = s.chan := rfl
@[simp] theorem State.setCursor_events (s : State) (c : Nat) : (s.setCursor c).events = s.events := rfl
@[simp] theorem State.setCursor_starts (s : State) (c : Nat) : (s.setCursor c).starts = s.starts := rfl
@[simp] theorem State.setCursor_schedule (s : State) (c : Nat) : (s.setCursor c).schedule = s.schedule := rfl
@[simp] theorem State.setCursor_dec_rxb (s : State) (c : Nat) : (s.setCursor c).dec.rxb = s.dec.rxb := rfl
@[simp] theorem State.setCursor_dec_dst (s : State) (c : Nat) : (s.setCursor c).dec.dst = s.dec.dst := rfl
@[simp] theorem State.setCursor_dec_first (s : State) (c : Nat) : (s.setCursor c).dec.first = s.dec.first := rfl
@[simp] theorem State.setCursor_dec_cursor (s : State) (c : Nat) : (s.setCursor c).dec.cursor = c := rfl
@[simp] theorem State.setCursor_dec_fault (s : State) (c : Nat) : (s.setCursor c).dec.fault = s.dec.fault := rfl
@[simp] theorem State.setCursor_dec_des (s : State) (c : Nat) : (s.setCursor c).dec.des = s.dec.des := rfl
@[simp] theorem State.setCursor_dec_epoch (s : State) (c : Nat) : (s.setCursor c).dec.epoch = s.dec.epoch := rfl

@[simp] theorem State.setDecFirst_params (s : State) (b : Bool) : (s.setDecFirst b).params = s.params := rfl
@[simp] theorem State.setDecFirst_frame (s : State) (b : Bool) : (s.setDecFirst b).frame = s.frame := rfl
@[simp] theorem State.setDecFirst_enc (s : State) (b : Bool) : (s.setDecFirst b).enc = s.enc := rfl
@[simp] theorem State.setDecFirst_chan (s : State) (b : Bool) : (s.setDecFirst b).chan = s.chan := rfl
@[simp] theorem State.setDecFirst_events (s : State) (b : Bool) : (s.setDecFirst b).events = s.events := rfl
@[simp] theorem State.setDecFirst_starts (s : State) (b : Bool) : (s.setDecFirst b).starts = s.starts := rfl
@[simp] theorem State.setDecFirst_schedule (s : State) (b : Bool) : (s.setDecFirst b).schedule = s.schedule := rfl
@[simp] theorem State.setDecFirst_dec_rxb (s : State) (b : Bool) : (s.setDecFirst b).dec.rxb = s.dec.rxb := rfl
@[simp] theorem State.setDecFirst_dec_dst (s : State) (b : Bool) : (s.setDecFirst b).dec.dst = s.dec.dst := rfl
@[simp] theorem State.setDecFirst_dec_first (s : State) (b : Bool) : (s.setDecFirst b).dec.first = b := rfl
@[simp] theorem State.setDecFirst_dec_cursor (s : State) (b : Bool) : (s.setDecFirst b).dec.cursor = s.dec.cursor := rfl
@[simp] theorem State.setDecFirst_dec_fault (s : State) (b : Bool) : (s.setDecFirst b).dec.fault = s.dec.fault := rfl
@[simp] theorem State.setDecFirst_dec_des (s : State) (b : Bool) : (s.setDecFirst b).dec.des = s.dec.des := rfl
@[simp] theorem State.setDecFirst_dec_epoch (s : State) (b : Bool) : (s.setDecFirst b).dec.epoch = s.dec.epoch := rfl

@[simp] theorem State.setFault_params (s : State) (f : DecFault) : (s.setFault f).params = s.params := rfl
@[simp] theorem State.setFault_frame (s : State) (f : DecFault) : (s.setFault f).frame = s.frame := rfl
@[simp] theorem State.setFault_enc (s : State) (f : DecFault) : (s.setFault f).enc = s.enc := rfl
@[simp] theorem State.setFault_chan (s : State) (f : DecFault) : (s.setFault f).chan = s.chan := rfl
@[simp] theorem State.setFault_events (s : State) (f : DecFault) : (s.setFault f).events = s.events := rfl
@[simp] theorem State.setFault_starts (s : State) (f : DecFault) : (s.setFault f).starts = s.starts := rfl
@[simp] theorem State.setFault_schedule (s : State) (f : DecFault) : (s.setFault f).schedule = s.schedule := rfl
@[simp] theorem State.setFault_dec_rxb (s : State) (f : DecFault) : (s.setFault f).dec.rxb = s.dec.rxb := rfl
@[simp] theorem State.setFault_dec_dst (s : State) (f : DecFault) : (s.setFault f).dec.dst = s.dec.dst := rfl
@[simp] theorem State.setFault_dec_first (s : State) (f : DecFault) : (s.setFault f).dec.first = s.dec.first := rfl
@[simp] theorem State.setFault_dec_cursor (s : State) (f : DecFault) : (s.setFault f).dec.cursor = s.dec.cursor := rfl
@[simp] theorem State.setFault_dec_fault (s : State) (f : DecFault) : (s.setFault f).dec.fault = f := rfl
@[simp] theorem State.setFault_dec_des (s : State) (f : DecFault) : (s.setFault f).dec.des = s.dec.des := rfl
@[simp] theorem State.setFault_dec_epoch (s : State) (f : DecFault) : (s.setFault f).dec.epoch = s.dec.epoch := rfl

@[simp] theorem State.setDes_params (s : State) (d : Des) : (s.setDes d).params = s.params := rfl
@[simp] theorem State.setDes_frame (s : State) (d : Des) : (s.setDes d).frame = s.frame := rfl
@[simp] theorem State.setDes_enc (s : State) (d : Des) : (s.setDes d).enc = s.enc := rfl
@[simp] theorem State.setDes_chan (s : State) (d : Des) : (s.setDes d).chan = s.chan := rfl
@[simp] theorem State.setDes_events (s : State) (d : Des) : (s.setDes d).events = s.events := rfl
@[simp] theorem State.setDes_starts (s : State) (d : Des) : (s.setDes d).starts = s.starts := rfl
@[simp] theorem State.setDes_schedule (s : State) (d : Des) : (s.setDes d).schedule = s.schedule := rfl
@[simp] theorem State.setDes_dec_rxb (s : State) (d : Des) : (s.setDes d).dec.rxb = s.dec.rxb := rfl
@[simp] theorem State.setDes_dec_dst (s : State) (d : Des) : (s.setDes d).dec.dst = s.dec.dst := rfl
@[simp] theorem State.setDes_dec_first (s : State) (d : Des) : (s.setDes d).dec.first = s.dec.first := rfl
@[simp] theorem State.setDes_dec_cursor (s : State) (d : Des) : (s.setDes d).dec.cursor = s.dec.cursor := rfl
@[simp] theorem State.setDes_dec_fault (s : State) (d : Des) : (s.setDes d).dec.fault = s.dec.fault := rfl
@[simp] theorem State.setDes_dec_des (s : State) (d : Des) : (s.setDes d).dec.des = d := rfl
@[simp] theorem State.setDes_dec_epoch (s : State) (d : Des) : (s.setDes d).dec.epoch = s.dec.epoch := rfl

@[simp] theorem State.setBytes_params (s : State) (bs : List Byte) : (s.setBytes bs).params = s.params := rfl
@[simp] theorem State.setBytes_frame (s : State) (bs : List Byte) : (s.setBytes bs).frame = s.frame := rfl
@[simp] theorem State.setBytes_enc (s : State) (bs : List Byte) : (s.setBytes bs).enc = s.enc := rfl
@[simp] theorem State.setBytes_dec (s : State) (bs : List Byte) : (s.setBytes bs).dec = s.dec := rfl
@[simp] theorem State.setBytes_events (s : State) (bs : List Byte) : (s.setBytes bs).events = s.events := rfl
@[simp] theorem State.setBytes_starts (s : State) (bs : List Byte) : (s.setBytes bs).starts = s.starts := rfl
@[simp] theorem State.setBytes_schedule (s : State) (bs : List Byte) : (s.setBytes bs).schedule = s.schedule := rfl
@[simp] theorem State.setBytes_chan_bytes (s : State) (bs : List Byte) : (s.setBytes bs).chan.bytes = bs := rfl
@[simp] theorem State.setBytes_chan_txReady (s : State) (bs : List Byte) : (s.setBytes bs).chan.txReady = s.chan.txReady := rfl
@[simp] theorem State.setBytes_chan_rxValid (s : State) (bs : List Byte) : (s.setBytes bs).chan.rxValid = s.chan.rxValid := rfl

@[simp] theorem State.setTxReady_params (s : State) (level : Bool) : (s.setTxReady level).params = s.params := rfl
@[simp] theorem State.setTxReady_frame (s : State) (level : Bool) : (s.setTxReady level).frame = s.frame := rfl
@[simp] theorem State.setTxReady_enc (s : State) (level : Bool) : (s.setTxReady level).enc = s.enc := rfl
@[simp] theorem State.setTxReady_dec (s : State) (level : Bool) : (s.setTxReady level).dec = s.dec := rfl
@[simp] theorem State.setTxReady_events (s : State) (level : Bool) : (s.setTxReady level).events = s.events := rfl
@[simp] theorem State.setTxReady_starts (s : State) (level : Bool) : (s.setTxReady level).starts = s.starts := rfl
@[simp] theorem State.setTxReady_schedule (s : State) (level : Bool) : (s.setTxReady level).schedule = s.schedule := rfl
@[simp] theorem State.setTxReady_chan_bytes (s : State) (level : Bool) : (s.setTxReady level).chan.bytes = s.chan.bytes := rfl
@[simp] theorem State.setTxReady_chan_txReady (s : State) (level : Bool) : (s.setTxReady level).chan.txReady = level := rfl
@[simp] theorem State.setTxReady_chan_rxValid (s : State) (level : Bool) : (s.setTxReady level).chan.rxValid = s.chan.rxValid := rfl

@[simp] theorem State.setRxValid_params (s : State) (level : Bool) : (s.setRxValid level).params = s.params := rfl
@[simp] theorem State.setRxValid_frame (s : State) (level : Bool) : (s.setRxValid level).frame = s.frame := rfl
@[simp] theorem State.setRxValid_enc (s : State) (level : Bool) : (s.setRxValid level).enc = s.enc := rfl
@[simp] theorem State.setRxValid_dec (s : State) (level : Bool) : (s.setRxValid level).dec = s.dec := rfl
@[simp] theorem State.setRxValid_events (s : State) (level : Bool) : (s.setRxValid level).events = s.events := rfl
@[simp] theorem State.setRxValid_starts (s : State) (level : Bool) : (s.setRxValid level).starts = s.starts := rfl
@[simp] theorem State.setRxValid_schedule (s : State) (level : Bool) : (s.setRxValid level).schedule = s.schedule := rfl
@[simp] theorem State.setRxValid_chan_bytes (s : State) (level : Bool) : (s.setRxValid level).chan.bytes = s.chan.bytes := rfl
@[simp] theorem State.setRxValid_chan_txReady (s : State) (level : Bool) : (s.setRxValid level).chan.txReady = s.chan.txReady := rfl
@[simp] theorem State.setRxValid_chan_rxValid (s : State) (level : Bool) : (s.setRxValid level).chan.rxValid = level := rfl

@[simp] theorem State.countStart_params (s : State) : s.countStart.params = s.params := rfl
@[simp] theorem State.countStart_frame (s : State) : s.countStart.frame = s.frame := rfl
@[simp] theorem State.countStart_enc (s : State) : s.countStart.enc = s.enc := rfl
@[simp] theorem State.countStart_chan (s : State) : s.countStart.chan = s.chan := rfl
@[simp] theorem State.countStart_dec (s : State) : s.countStart.dec = s.dec := rfl
@[simp] theorem State.countStart_events (s : State) : s.countStart.events = s.events := rfl
@[simp] theorem State.countStart_schedule (s : State) : s.countStart.schedule = s.schedule := rfl
@[simp] theorem State.countStart_starts (s : State) : s.countStart.starts = s.starts + 1 := rfl

@[simp] theorem State.setEnc_params (s : State) (e : Enc) : (s.setEnc e).params = s.params := rfl
@[simp] theorem State.setEnc_frame (s : State) (e : Enc) : (s.setEnc e).frame = s.frame := rfl
@[simp] theorem State.setEnc_enc (s : State) (e : Enc) : (s.setEnc e).enc = e := rfl
@[simp] theorem State.setEnc_chan (s : State) (e : Enc) : (s.setEnc e).chan = s.chan := rfl
@[simp] theorem State.setEnc_dec (s : State) (e : Enc) : (s.setEnc e).dec = s.dec := rfl
@[simp] theorem State.setEnc_events (s : State) (e : Enc) : (s.setEnc e).events = s.events := rfl
@[simp] theorem State.setEnc_starts (s : State) (e : Enc) : (s.setEnc e).starts = s.starts := rfl
@[simp] theorem State.setEnc_schedule (s : State) (e : Enc) : (s.setEnc e).schedule = s.schedule := rfl

@[simp] theorem State.setSchedule_params (s : State) (ms : List Move) : (s.setSchedule ms).params = s.params := rfl
@[simp] theorem State.setSchedule_frame (s : State) (ms : List Move) : (s.setSchedule ms).frame = s.frame := rfl
@[simp] theorem State.setSchedule_enc (s : State) (ms : List Move) : (s.setSchedule ms).enc = s.enc := rfl
@[simp] theorem State.setSchedule_chan (s : State) (ms : List Move) : (s.setSchedule ms).chan = s.chan := rfl
@[simp] theorem State.setSchedule_dec (s : State) (ms : List Move) : (s.setSchedule ms).dec = s.dec := rfl
@[simp] theorem State.setSchedule_events (s : State) (ms : List Move) : (s.setSchedule ms).events = s.events := rfl
@[simp] theorem State.setSchedule_starts (s : State) (ms : List Move) : (s.setSchedule ms).starts = s.starts := rfl
@[simp] theorem State.setSchedule_schedule (s : State) (ms : List Move) : (s.setSchedule ms).schedule = ms := rfl

@[simp] theorem State.raiseEvent_params (s : State) (e : PortEvent) : (s.raiseEvent e).params = s.params := rfl
@[simp] theorem State.raiseEvent_frame (s : State) (e : PortEvent) : (s.raiseEvent e).frame = s.frame := rfl
@[simp] theorem State.raiseEvent_enc (s : State) (e : PortEvent) : (s.raiseEvent e).enc = s.enc := rfl
@[simp] theorem State.raiseEvent_chan (s : State) (e : PortEvent) : (s.raiseEvent e).chan = s.chan := rfl
@[simp] theorem State.raiseEvent_dec (s : State) (e : PortEvent) : (s.raiseEvent e).dec = s.dec := rfl
@[simp] theorem State.raiseEvent_events (s : State) (e : PortEvent) : (s.raiseEvent e).events = s.events ++ [e] := rfl
@[simp] theorem State.raiseEvent_starts (s : State) (e : PortEvent) : (s.raiseEvent e).starts = s.starts := rfl
@[simp] theorem State.raiseEvent_schedule (s : State) (e : PortEvent) : (s.raiseEvent e).schedule = s.schedule := rfl

/-! The memory update of one space: every register keeps its value. -/

@[simp] theorem State.setCells_params (s : State) (sp : Space) (m : Memory) : (s.setCells sp m).params = s.params := by cases sp <;> rfl
@[simp] theorem State.setCells_chan (s : State) (sp : Space) (m : Memory) : (s.setCells sp m).chan = s.chan := by cases sp <;> rfl
@[simp] theorem State.setCells_events (s : State) (sp : Space) (m : Memory) : (s.setCells sp m).events = s.events := by cases sp <;> rfl
@[simp] theorem State.setCells_starts (s : State) (sp : Space) (m : Memory) : (s.setCells sp m).starts = s.starts := by cases sp <;> rfl
@[simp] theorem State.setCells_schedule (s : State) (sp : Space) (m : Memory) : (s.setCells sp m).schedule = s.schedule := by cases sp <;> rfl
@[simp] theorem State.setCells_enc_first (s : State) (sp : Space) (m : Memory) : (s.setCells sp m).enc.first = s.enc.first := by cases sp <;> rfl
@[simp] theorem State.setCells_enc_mode (s : State) (sp : Space) (m : Memory) : (s.setCells sp m).enc.mode = s.enc.mode := by cases sp <;> rfl
@[simp] theorem State.setCells_enc_prev (s : State) (sp : Space) (m : Memory) : (s.setCells sp m).enc.prev = s.enc.prev := by cases sp <;> rfl
@[simp] theorem State.setCells_enc_cnt (s : State) (sp : Space) (m : Memory) : (s.setCells sp m).enc.cnt = s.enc.cnt := by cases sp <;> rfl
@[simp] theorem State.setCells_enc_lbuf (s : State) (sp : Space) (m : Memory) : (s.setCells sp m).enc.lbuf = s.enc.lbuf := by cases sp <;> rfl
@[simp] theorem State.setCells_enc_llen (s : State) (sp : Space) (m : Memory) : (s.setCells sp m).enc.llen = s.enc.llen := by cases sp <;> rfl
@[simp] theorem State.setCells_enc_idx (s : State) (sp : Space) (m : Memory) : (s.setCells sp m).enc.idx = s.enc.idx := by cases sp <;> rfl
@[simp] theorem State.setCells_enc_ending (s : State) (sp : Space) (m : Memory) : (s.setCells sp m).enc.ending = s.enc.ending := by cases sp <;> rfl
@[simp] theorem State.setCells_enc_busy (s : State) (sp : Space) (m : Memory) : (s.setCells sp m).enc.busy = s.enc.busy := by cases sp <;> rfl
@[simp] theorem State.setCells_dec_first (s : State) (sp : Space) (m : Memory) : (s.setCells sp m).dec.first = s.dec.first := by cases sp <;> rfl
@[simp] theorem State.setCells_dec_cursor (s : State) (sp : Space) (m : Memory) : (s.setCells sp m).dec.cursor = s.dec.cursor := by cases sp <;> rfl
@[simp] theorem State.setCells_dec_fault (s : State) (sp : Space) (m : Memory) : (s.setCells sp m).dec.fault = s.dec.fault := by cases sp <;> rfl
@[simp] theorem State.setCells_dec_des (s : State) (sp : Space) (m : Memory) : (s.setCells sp m).dec.des = s.dec.des := by cases sp <;> rfl
@[simp] theorem State.setCells_dec_epoch (s : State) (sp : Space) (m : Memory) : (s.setCells sp m).dec.epoch = s.dec.epoch := by cases sp <;> rfl

@[simp] theorem State.setCells_cells_self (s : State) (sp : Space) (m : Memory) : (s.setCells sp m).cells sp = m := by
  cases sp <;> rfl

theorem State.setCells_cells_ne (s : State) {sp sp' : Space} (m : Memory) (h : sp' ≠ sp) :
    (s.setCells sp m).cells sp' = s.cells sp' := by
  cases sp <;> cases sp' <;> first | rfl | exact absurd rfl h

@[simp] theorem State.setCells_frame_dec (s : State) (m : Memory) : (s.setCells .frame m).dec = s.dec := rfl
@[simp] theorem State.setCells_frame_enc (s : State) (m : Memory) : (s.setCells .frame m).enc = s.enc := rfl
@[simp] theorem State.setCells_txb_dec (s : State) (m : Memory) : (s.setCells .txb m).dec = s.dec := rfl
@[simp] theorem State.setCells_txb_frame (s : State) (m : Memory) : (s.setCells .txb m).frame = s.frame := rfl
@[simp] theorem State.setCells_dst_enc (s : State) (m : Memory) : (s.setCells .dst m).enc = s.enc := rfl
@[simp] theorem State.setCells_dst_frame (s : State) (m : Memory) : (s.setCells .dst m).frame = s.frame := rfl
@[simp] theorem State.setCells_dst_rxb (s : State) (m : Memory) : (s.setCells .dst m).dec.rxb = s.dec.rxb := rfl
@[simp] theorem State.setCells_rxb_enc (s : State) (m : Memory) : (s.setCells .rxb m).enc = s.enc := rfl
@[simp] theorem State.setCells_rxb_frame (s : State) (m : Memory) : (s.setCells .rxb m).frame = s.frame := rfl
@[simp] theorem State.setCells_rxb_dst (s : State) (m : Memory) : (s.setCells .rxb m).dec.dst = s.dec.dst := rfl

end Sys2Proof.Machine
end

