-- ==== Sys2Proof/Laws/Memory.lean ====
section
/-! SUPPORT. The laws of one-byte memory access: a read after a write, the other bytes, and the canonical form
(20_memory.md rules R44, R49). -/

namespace Sys2Proof.Machine

/-! ## Cells -/

theorem Memory.lookup_insert (m : Memory) (i j : Nat) (v : Byte) :
    Memory.lookup (Memory.insert m i v) j = if j = i then some v else Memory.lookup m j := by
  induction m with
  | nil => simp [Memory.insert, Memory.lookup]
  | cons c m ih =>
    obtain ⟨k, u⟩ := c
    simp only [Memory.insert]
    split
    · simp [Memory.lookup]
    · split
      · subst_vars
        by_cases h : j = k <;> simp [Memory.lookup, h]
      · simp only [Memory.lookup, ih]
        by_cases h : j = k <;> by_cases h' : j = i <;> simp [h, h'] <;> omega

theorem Memory.lookup_erase (m : Memory) (i j : Nat) :
    Memory.lookup (Memory.erase m i) j = if j = i then none else Memory.lookup m j := by
  induction m with
  | nil => simp [Memory.erase, Memory.lookup]
  | cons c m ih =>
    obtain ⟨k, u⟩ := c
    have e : Memory.erase ((k, u) :: m) i = if k = i then Memory.erase m i else (k, u) :: Memory.erase m i := by
      by_cases h : k = i <;> simp [Memory.erase, h]
    by_cases h : k = i <;> by_cases h' : j = i <;> by_cases h'' : j = k <;> simp_all [Memory.lookup]

/-- What an index reads as after a write, where unlisted indices read as `u`. -/
theorem Memory.value_write (u : Option Byte) (m : Memory) (i j : Nat) (v : Byte) :
    Memory.value u (Memory.write u m i v) j = if j = i then some v else Memory.value u m j := by
  unfold Memory.write Memory.value
  by_cases hu : u = some v
  · rw [if_pos hu, Memory.lookup_erase]
    by_cases h : j = i <;> simp [h, hu]
  · rw [if_neg hu, Memory.lookup_insert]
    by_cases h : j = i <;> simp [h]

/-- Where unlisted indices have a value, every index has one. -/
theorem Memory.value_some (v : Byte) (m : Memory) (i : Nat) :
    Memory.value (some v) m i = some ((Memory.lookup m i).getD v) := by
  unfold Memory.value
  cases Memory.lookup m i <;> rfl

theorem Memory.mem_insert {m : Memory} {i : Nat} {v : Byte} {c : Host.Cell} (h : c ∈ Memory.insert m i v) :
    c = (i, v) ∨ c ∈ m := by
  induction m with
  | nil => simpa [Memory.insert] using h
  | cons d m ih =>
    obtain ⟨k, u⟩ := d
    simp only [Memory.insert] at h
    split at h
    · simpa using h
    · split at h
      · rcases List.mem_cons.1 h with h | h
        · exact .inl h
        · exact .inr (List.mem_cons_of_mem _ h)
      · rcases List.mem_cons.1 h with h | h
        · exact .inr (h ▸ List.mem_cons_self)
        · rcases ih h with h | h
          · exact .inl h
          · exact .inr (List.mem_cons_of_mem _ h)

theorem Memory.mem_erase {m : Memory} {i : Nat} {c : Host.Cell} (h : c ∈ Memory.erase m i) : c ∈ m :=
  (List.mem_filter.1 h).1

theorem Memory.mem_write {u : Option Byte} {m : Memory} {i : Nat} {v : Byte} {c : Host.Cell}
    (h : c ∈ Memory.write u m i v) : c = (i, v) ∨ c ∈ m := by
  unfold Memory.write at h
  split at h
  · exact .inr (Memory.mem_erase h)
  · exact Memory.mem_insert h

theorem Memory.pairwise_insert {m : Memory} (i : Nat) (v : Byte) (h : m.Pairwise fun a b => a.1 < b.1) :
    (Memory.insert m i v).Pairwise fun a b => a.1 < b.1 := by
  induction m with
  | nil => simp [Memory.insert]
  | cons d m ih =>
    obtain ⟨k, u⟩ := d
    obtain ⟨hk, hm⟩ := List.pairwise_cons.1 h
    simp only [Memory.insert]
    split
    · rename_i hik
      refine List.pairwise_cons.2 ⟨fun c hc => ?_, h⟩
      rcases List.mem_cons.1 hc with rfl | hc
      · exact hik
      · exact Nat.lt_trans hik (hk c hc)
    · split
      · subst_vars
        exact List.pairwise_cons.2 ⟨hk, hm⟩
      · refine List.pairwise_cons.2 ⟨fun c hc => ?_, ih hm⟩
        rcases Memory.mem_insert hc with rfl | hc
        · show k < i
          omega
        · exact hk c hc

/-- A write keeps the canonical form. -/
theorem Memory.wf_write {u : Option Byte} {m : Memory} (i : Nat) (v : Byte) (h : Memory.wf u m = true) :
    Memory.wf u (Memory.write u m i v) = true := by
  simp only [Memory.wf, Bool.and_eq_true, decide_eq_true_eq, List.all_eq_true] at h ⊢
  obtain ⟨hp, hu⟩ := h
  unfold Memory.write
  split
  · exact ⟨hp.filter _, fun c hc => hu c (Memory.mem_erase hc)⟩
  · rename_i hv
    refine ⟨Memory.pairwise_insert i v hp, fun c hc => ?_⟩
    rcases Memory.mem_insert hc with rfl | hc
    · exact hv
    · exact hu c hc

theorem Memory.wf_nil (u : Option Byte) : Memory.wf u [] = true := by simp [Memory.wf]

/-! ## The four spaces -/

/-- The whole effect of a write on what indices hold. -/
theorem memValue_memWrite (s : State) (sp sp' : Space) (i j : Nat) (v : Byte) :
    memValue (memWrite s sp i v) sp' j = if sp' = sp ∧ j = i then some v else memValue s sp' j := by
  unfold memValue memWrite
  by_cases h : sp' = sp
  · subst h
    rw [State.setCells_cells_self, Memory.value_write]
    simp
  · rw [State.setCells_cells_ne s _ h]
    simp [h]

theorem memValue_memWrite_self (s : State) (sp : Space) (i : Nat) (v : Byte) :
    memValue (memWrite s sp i v) sp i = some v := by simp [memValue_memWrite]

theorem freeByte_setCells (s : State) (sp sp' : Space) (m : Memory) (i : Nat) :
    (s.setCells sp m).freeByte sp' i = s.freeByte sp' i := by
  cases sp' <;> simp [State.freeByte]

/-- The whole effect of a write on what is read. -/
theorem memRead_memWrite (s : State) (sp sp' : Space) (i j : Nat) (v : Byte) :
    memRead (memWrite s sp i v) sp' j = if sp' = sp ∧ j = i then v else memRead s sp' j := by
  unfold memRead
  rw [memValue_memWrite]
  by_cases h : sp' = sp ∧ j = i
  · simp [h]
  · simp only [h, if_false]
    rw [memWrite, freeByte_setCells]

/-- A baseline byte always has a value. -/
theorem memValue_txb (s : State) (i : Nat) : memValue s .txb i = some (memRead s .txb i) := by
  simp [memRead, memValue, unlisted, Memory.value_some]

/-- A baseline byte always has a value. -/
theorem memValue_rxb (s : State) (i : Nat) : memValue s .rxb i = some (memRead s .rxb i) := by
  simp [memRead, memValue, unlisted, Memory.value_some]

/-- Reading depends on the cells and, for `DST`, on the epoch alone. -/
theorem memRead_congr {s t : State} {sp : Space} (hc : t.cells sp = s.cells sp) (he : t.dec.epoch = s.dec.epoch) (i : Nat) :
    memRead t sp i = memRead s sp i := by
  unfold memRead memValue
  rw [hc]
  cases sp <;> simp [State.freeByte, he]

/-- What indices hold depends on the cells alone. -/
theorem memValue_congr {s t : State} {sp : Space} (hc : t.cells sp = s.cells sp) (i : Nat) :
    memValue t sp i = memValue s sp i := by
  unfold memValue
  rw [hc]

@[simp] theorem memWrite_params (s : State) (sp : Space) (i : Nat) (v : Byte) : (memWrite s sp i v).params = s.params := by
  simp [memWrite]
@[simp] theorem memWrite_chan (s : State) (sp : Space) (i : Nat) (v : Byte) : (memWrite s sp i v).chan = s.chan := by
  simp [memWrite]
@[simp] theorem memWrite_events (s : State) (sp : Space) (i : Nat) (v : Byte) : (memWrite s sp i v).events = s.events := by
  simp [memWrite]
@[simp] theorem memWrite_starts (s : State) (sp : Space) (i : Nat) (v : Byte) : (memWrite s sp i v).starts = s.starts := by
  simp [memWrite]
@[simp] theorem memWrite_schedule (s : State) (sp : Space) (i : Nat) (v : Byte) : (memWrite s sp i v).schedule = s.schedule := by
  simp [memWrite]
@[simp] theorem memWrite_enc_first (s : State) (sp : Space) (i : Nat) (v : Byte) : (memWrite s sp i v).enc.first = s.enc.first := by
  simp [memWrite]
@[simp] theorem memWrite_enc_mode (s : State) (sp : Space) (i : Nat) (v : Byte) : (memWrite s sp i v).enc.mode = s.enc.mode := by
  simp [memWrite]
@[simp] theorem memWrite_enc_prev (s : State) (sp : Space) (i : Nat) (v : Byte) : (memWrite s sp i v).enc.prev = s.enc.prev := by
  simp [memWrite]
@[simp] theorem memWrite_enc_cnt (s : State) (sp : Space) (i : Nat) (v : Byte) : (memWrite s sp i v).enc.cnt = s.enc.cnt := by
  simp [memWrite]
@[simp] theorem memWrite_enc_lbuf (s : State) (sp : Space) (i : Nat) (v : Byte) : (memWrite s sp i v).enc.lbuf = s.enc.lbuf := by
  simp [memWrite]
@[simp] theorem memWrite_enc_llen (s : State) (sp : Space) (i : Nat) (v : Byte) : (memWrite s sp i v).enc.llen = s.enc.llen := by
  simp [memWrite]
@[simp] theorem memWrite_enc_idx (s : State) (sp : Space) (i : Nat) (v : Byte) : (memWrite s sp i v).enc.idx = s.enc.idx := by
  simp [memWrite]
@[simp] theorem memWrite_enc_busy (s : State) (sp : Space) (i : Nat) (v : Byte) : (memWrite s sp i v).enc.busy = s.enc.busy := by
  simp [memWrite]
@[simp] theorem memWrite_enc_ending (s : State) (sp : Space) (i : Nat) (v : Byte) : (memWrite s sp i v).enc.ending = s.enc.ending := by
  simp [memWrite]
@[simp] theorem memWrite_dec_first (s : State) (sp : Space) (i : Nat) (v : Byte) : (memWrite s sp i v).dec.first = s.dec.first := by
  simp [memWrite]
@[simp] theorem memWrite_dec_cursor (s : State) (sp : Space) (i : Nat) (v : Byte) : (memWrite s sp i v).dec.cursor = s.dec.cursor := by
  simp [memWrite]
@[simp] theorem memWrite_dec_fault (s : State) (sp : Space) (i : Nat) (v : Byte) : (memWrite s sp i v).dec.fault = s.dec.fault := by
  simp [memWrite]
@[simp] theorem memWrite_dec_des (s : State) (sp : Space) (i : Nat) (v : Byte) : (memWrite s sp i v).dec.des = s.dec.des := by
  simp [memWrite]
@[simp] theorem memWrite_dec_epoch (s : State) (sp : Space) (i : Nat) (v : Byte) : (memWrite s sp i v).dec.epoch = s.dec.epoch := by
  simp [memWrite]

/-- A write to `DST` changes the cells of `DST` and nothing else. -/
theorem memWrite_dst (s : State) (i : Nat) (v : Byte) :
    memWrite s .dst i v = { s with dec := { s.dec with dst := Memory.write none s.dec.dst i v } } := rfl

/-- A write to `RXB` changes the cells of `RXB` and nothing else. -/
theorem memWrite_rxb (s : State) (i : Nat) (v : Byte) :
    memWrite s .rxb i v = { s with dec := { s.dec with rxb := Memory.write (some 0x00) s.dec.rxb i v } } := rfl

/-- A write to `TXB` changes the cells of `TXB` and nothing else. -/
theorem memWrite_txb (s : State) (i : Nat) (v : Byte) :
    memWrite s .txb i v = { s with enc := { s.enc with txb := Memory.write (some 0x00) s.enc.txb i v } } := rfl

/-- A write to `FRAME` changes the cells of `FRAME` and nothing else. -/
theorem memWrite_frame (s : State) (i : Nat) (v : Byte) :
    memWrite s .frame i v = { s with frame := Memory.write none s.frame i v } := rfl

end Sys2Proof.Machine
end

