-- ==== Sys2Proof/Laws/Receiver.lean ====
section
/-! SUPPORT. What the operations of the receiving half do, said once each (42_rle_decoder.md, 43_xor_delta_decoder.md,
46_baseline_register.md). -/

namespace Sys2Proof.Machine

/-! ## XDD.BYTE -/

@[simp] theorem decXorActive_memWrite_dst (s : State) (i : Nat) (v : Byte) :
    decXorActive (memWrite s .dst i v) = decXorActive s := rfl

/-- `XDD.BYTE` over a sequence changes the cells of `DST` and nothing else. -/
theorem xddBytes_only_dst (ds : List Byte) : ∀ (s : State) (p : Nat),
    xddBytes s p ds = { s with dec := { s.dec with dst := (xddBytes s p ds).dec.dst } } := by
  induction ds with
  | nil => intro s p; rfl
  | cons d ds ih =>
    intro s p
    rw [xddBytes, ih]
    rfl

section
variable (s : State) (p : Nat) (ds : List Byte)
@[simp] theorem xddBytes_params : (xddBytes s p ds).params = s.params := by rw [xddBytes_only_dst]
@[simp] theorem xddBytes_frame : (xddBytes s p ds).frame = s.frame := by rw [xddBytes_only_dst]
@[simp] theorem xddBytes_enc : (xddBytes s p ds).enc = s.enc := by rw [xddBytes_only_dst]
@[simp] theorem xddBytes_chan : (xddBytes s p ds).chan = s.chan := by rw [xddBytes_only_dst]
@[simp] theorem xddBytes_events : (xddBytes s p ds).events = s.events := by rw [xddBytes_only_dst]
@[simp] theorem xddBytes_starts : (xddBytes s p ds).starts = s.starts := by rw [xddBytes_only_dst]
@[simp] theorem xddBytes_schedule : (xddBytes s p ds).schedule = s.schedule := by rw [xddBytes_only_dst]
@[simp] theorem xddBytes_rxb : (xddBytes s p ds).dec.rxb = s.dec.rxb := by rw [xddBytes_only_dst]
@[simp] theorem xddBytes_first : (xddBytes s p ds).dec.first = s.dec.first := by rw [xddBytes_only_dst]
@[simp] theorem xddBytes_cursor : (xddBytes s p ds).dec.cursor = s.dec.cursor := by rw [xddBytes_only_dst]
@[simp] theorem xddBytes_fault : (xddBytes s p ds).dec.fault = s.dec.fault := by rw [xddBytes_only_dst]
@[simp] theorem xddBytes_des : (xddBytes s p ds).dec.des = s.dec.des := by rw [xddBytes_only_dst]
@[simp] theorem xddBytes_epoch : (xddBytes s p ds).dec.epoch = s.dec.epoch := by rw [xddBytes_only_dst]
end

/-- What `DST` holds after `XDD.BYTE` over a sequence: position `p + k` holds the raw byte of `ds[k]`, every other position what
it held (rules R116, R120). -/
theorem memValue_xddBytes (ds : List Byte) : ∀ (s : State) (p j : Nat),
    memValue (xddBytes s p ds) .dst j =
      if p ≤ j ∧ j < p + ds.length then
        some (undeltaByte (decXorActive s) (ds.getD (j - p) 0x00) (memRead s .rxb j))
      else memValue s .dst j := by
  induction ds with
  | nil =>
    intro s p j
    rw [if_neg (by simp)]
    rfl
  | cons d ds ih =>
    intro s p j
    rw [xddBytes, ih]
    unfold xddByte
    rw [decXorActive_memWrite_dst, memRead_memWrite, memValue_memWrite]
    simp only [List.length_cons, reduceCtorEq, false_and, if_false, true_and, blrRead]
    by_cases h1 : p + 1 ≤ j ∧ j < p + 1 + ds.length
    · have e : j - p = (j - (p + 1)) + 1 := by omega
      rw [if_pos h1, if_pos (by omega), e, List.getD_cons_succ]
    · rw [if_neg h1]
      by_cases h2 : j = p
      · subst h2
        simp
      · rw [if_neg h2, if_neg (by omega)]

/-! ## BLR.RXCOMMIT -/

/-- The copy changes the cells of `RXB` and nothing else. -/
theorem copyDstToRxb_only_rxb (n : Nat) (s : State) :
    copyDstToRxb n s = { s with dec := { s.dec with rxb := (copyDstToRxb n s).dec.rxb } } := by
  have h : ∃ m, copyDstToRxb n s = { s with dec := { s.dec with rxb := m } } := by
    induction n with
    | zero => exact ⟨s.dec.rxb, rfl⟩
    | succ n ih =>
      obtain ⟨m, hm⟩ := ih
      exact ⟨_, by simp only [copyDstToRxb, hm, memWrite_rxb]; rfl⟩
  obtain ⟨m, hm⟩ := h
  rw [hm]

section
variable (s : State)
@[simp] theorem blrRxCommit_params : (blrRxCommit s).params = s.params := by rw [blrRxCommit, copyDstToRxb_only_rxb]
@[simp] theorem blrRxCommit_frame : (blrRxCommit s).frame = s.frame := by rw [blrRxCommit, copyDstToRxb_only_rxb]
@[simp] theorem blrRxCommit_enc : (blrRxCommit s).enc = s.enc := by rw [blrRxCommit, copyDstToRxb_only_rxb]
@[simp] theorem blrRxCommit_chan : (blrRxCommit s).chan = s.chan := by rw [blrRxCommit, copyDstToRxb_only_rxb]
@[simp] theorem blrRxCommit_events : (blrRxCommit s).events = s.events := by rw [blrRxCommit, copyDstToRxb_only_rxb]
@[simp] theorem blrRxCommit_starts : (blrRxCommit s).starts = s.starts := by rw [blrRxCommit, copyDstToRxb_only_rxb]
@[simp] theorem blrRxCommit_schedule : (blrRxCommit s).schedule = s.schedule := by rw [blrRxCommit, copyDstToRxb_only_rxb]
@[simp] theorem blrRxCommit_dst : (blrRxCommit s).dec.dst = s.dec.dst := by rw [blrRxCommit, copyDstToRxb_only_rxb]
@[simp] theorem blrRxCommit_first : (blrRxCommit s).dec.first = s.dec.first := by rw [blrRxCommit, copyDstToRxb_only_rxb]
@[simp] theorem blrRxCommit_cursor : (blrRxCommit s).dec.cursor = s.dec.cursor := by rw [blrRxCommit, copyDstToRxb_only_rxb]
@[simp] theorem blrRxCommit_fault : (blrRxCommit s).dec.fault = s.dec.fault := by rw [blrRxCommit, copyDstToRxb_only_rxb]
@[simp] theorem blrRxCommit_des : (blrRxCommit s).dec.des = s.dec.des := by rw [blrRxCommit, copyDstToRxb_only_rxb]
@[simp] theorem blrRxCommit_epoch : (blrRxCommit s).dec.epoch = s.dec.epoch := by rw [blrRxCommit, copyDstToRxb_only_rxb]
end

theorem memRead_copy_dst (n : Nat) (s : State) (i : Nat) : memRead (copyDstToRxb n s) .dst i = memRead s .dst i := by
  rw [copyDstToRxb_only_rxb]
  exact memRead_congr rfl rfl i

/-- What `RXB` holds after the first `n` copies (rule R153). -/
theorem memRead_copy_rxb (n : Nat) : ∀ (s : State) (j : Nat),
    memRead (copyDstToRxb n s) .rxb j = if j < n then memRead s .dst j else memRead s .rxb j := by
  induction n with
  | zero => intro s j; simp [copyDstToRxb]
  | succ n ih =>
    intro s j
    show memRead (memWrite (copyDstToRxb n s) .rxb n _) .rxb j = _
    rw [memRead_memWrite, ih, memRead_copy_dst]
    by_cases h : j = n
    · subst h
      simp
    · rw [if_neg (by simp [h])]
      by_cases h' : j < n
      · rw [if_pos h', if_pos (by omega)]
      · rw [if_neg h', if_neg (by omega)]

/-! ## RLD -/

/-- Delta bytes that fit: what `RLD.LIT` and `RLD.REP` do (rules R111, R112). -/
theorem rldBytes_of_fits {ds : List Byte} {s : State} (h : s.dec.cursor + ds.length ≤ s.params.decL) :
    rldBytes ds s = (xddBytes s s.dec.cursor ds).setCursor (s.dec.cursor + ds.length) := by
  rw [rldBytes, if_neg (by omega)]

/-- Delta bytes that would pass `L`: the fault, and nothing else (rule R113). -/
theorem rldBytes_of_overrun {ds : List Byte} {s : State} (h : s.params.decL < s.dec.cursor + ds.length) :
    rldBytes ds s = raiseFault s .overrun := by
  rw [rldBytes, if_pos h]

theorem rldEnd_of_full {s : State} (h : s.dec.cursor = s.params.decL) :
    rldEnd s = (((blrRxCommit s).setCursor 0).setDecFirst false).raiseEvent .frameDone := by
  rw [rldEnd, if_pos h]

theorem rldEnd_of_short {s : State} (h : s.dec.cursor ≠ s.params.decL) : rldEnd s = raiseFault s .lengthMismatch := by
  rw [rldEnd, if_neg h]

theorem accepting_of_none {op : State → State} {s : State} (h : s.dec.fault = .none) : accepting op s = op s := by
  rw [accepting, if_pos h]

theorem accepting_of_fault {op : State → State} {s : State} (h : s.dec.fault ≠ .none) : accepting op s = s := by
  rw [accepting, if_neg h]

@[simp] theorem repBytes_length (b : Byte) (k : Nat) : (repBytes b k).length = k := by simp [repBytes]

/-- Every chunk that carries payload runs the same operation on its delta bytes (rules R111, R112). -/
theorem rld_payload {c : Chunk} (h : c ≠ .endMark) (s : State) : rld c s = rldBytes c.expand s := by
  cases c with
  | literal bytes _ => rfl
  | rep byte count _ => rfl
  | endMark => exact absurd rfl h

end Sys2Proof.Machine
end

