-- ==== Sys2Proof/Laws/Sender.lean ====
section
/-! SUPPORT. What the operations of the sending half do, said once each (40_xor_delta_encoder.md, 41_rle_encoder.md). -/

namespace Sys2Proof.Machine

/-! ## The pending literal -/

theorem Enc.pending_nil {e : Enc} (h : e.llen = 0) : e.pending = [] := by simp [Enc.pending, h]

theorem Enc.pending_length {e : Enc} (h : e.llen ≤ 16) : e.pending.length = e.llen := by
  simp [Enc.pending, h]

@[simp] theorem Enc.startLiteral_pending (e : Enc) (w : Byte) : (e.startLiteral w).pending = [w] := by
  have h : (e.lbuf.setIfInBounds 0 w).toList = e.lbuf.toList.set 0 w := by simp
  rw [Enc.pending, Enc.startLiteral, h]
  have hl : e.lbuf.toList.length = 16 := by simp
  match hv : e.lbuf.toList, hl with
  | a :: rest, _ => simp

theorem Enc.appendLiteral_pending {e : Enc} (w : Byte) (h : e.llen < 16) : (e.appendLiteral w).pending = e.pending ++ [w] := by
  have hs : (e.lbuf.setIfInBounds e.llen w).toList = e.lbuf.toList.set e.llen w := by simp
  have hl : e.lbuf.toList.length = 16 := by simp
  rw [Enc.pending, Enc.pending, Enc.appendLiteral, hs]
  show (e.lbuf.toList.set e.llen w).take (e.llen + 1) = _
  rw [List.take_add_one]
  simp [List.take_set_of_le, hl, h]

/-! ## A step into a sink -/

/-- Once the sink has taken a chunk, nothing changes but the events. -/
theorem chunkTaken_only_events (c : Chunk) (s : State) :
    chunkTaken c s = { s with events := (chunkTaken c s).events } := by
  cases c <;> rfl

/-- Only `End` raises an event when the sink has taken it (rule R99). -/
theorem chunkTaken_payload {c : Chunk} (h : c ≠ .endMark) (s : State) : chunkTaken c s = s := by
  cases c with
  | literal bytes _ => rfl
  | rep byte count _ => rfl
  | endMark => exact absurd rfl h

/-- A step that emits nothing does not ask the sink. -/
theorem encTurnInto_silent {ready : Bool} {sink : Chunk → State → State} {s t : State} (h : encNext s = .next (t, none)) :
    encTurnInto ready sink s = .next t := by
  simp only [encTurnInto, h]

/-- A ready sink takes the chunk (rule R105). -/
theorem encTurnInto_ready {sink : Chunk → State → State} {s t : State} {c : Chunk} (h : encNext s = .next (t, some c)) :
    encTurnInto true sink s = .next (chunkTaken c (sink c t)) := by
  simp only [encTurnInto, h, if_true]

/-- A sink that is not ready holds the whole step back (rule R105). -/
theorem encTurnInto_waits {sink : Chunk → State → State} {s t : State} {c : Chunk} (h : encNext s = .next (t, some c)) :
    encTurnInto false sink s = .next s := by
  simp [encTurnInto, h]

/-- Everything a step into a sink that answers a next state can do: wait, or complete. -/
theorem encTurnInto_cases {ready : Bool} {sink : Chunk → State → State} {s t : State}
    (h : encTurnInto ready sink s = .next t) :
    t = s ∨ encNext s = .next (t, none) ∨
      ∃ u c, encNext s = .next (u, some c) ∧ ready = true ∧ t = chunkTaken c (sink c u) := by
  unfold encTurnInto at h
  split at h
  · cases h
    exact .inr (.inl ‹_›)
  · cases ready with
    | false =>
      cases h
      exact .inl rfl
    | true =>
      cases h
      exact .inr (.inr ⟨_, _, ‹_›, rfl, rfl⟩)
  · cases h
  · cases h

/-! ## The next step of ENC -/

/-- Nothing to encode. -/
theorem encNext_of_not_busy {s : State} (h : s.enc.busy = false) : encNext s = .next (s, none) := by
  rw [encNext, if_pos h]

/-- Below `L`, the registers within their caps. -/
theorem encNext_of_scan {s : State} (hb : s.enc.busy = true) (hl : s.enc.llen ≤ 15) (hc : s.enc.cnt ≤ 254)
    (hi : s.enc.idx < s.params.encL) : encNext s = .next (encScan s) := by
  have hcap : ¬(Config.litCap ≤ s.enc.llen ∨ Config.repCap ≤ s.enc.cnt) := by
    simp only [Config.litCap, Config.repCap]
    omega
  rw [encNext, if_neg (by simp [hb]), if_neg hcap, if_pos hi]

/-- At `L`, the registers within their caps. -/
theorem encNext_of_flush {s : State} (hb : s.enc.busy = true) (hl : s.enc.llen ≤ 15) (hc : s.enc.cnt ≤ 254)
    (hi : s.enc.idx = s.params.encL) : encNext s = .next (encFlush s) := by
  have hcap : ¬(Config.litCap ≤ s.enc.llen ∨ Config.repCap ≤ s.enc.cnt) := by
    simp only [Config.litCap, Config.repCap]
    omega
  rw [encNext, if_neg (by simp [hb]), if_neg hcap, if_neg (by omega), if_pos hi]

/-- Everything the next step of ENC can be. -/
theorem encNext_cases {s : State} {r : State × Option Chunk} (h : encNext s = .next r) :
    (s.enc.busy = false ∧ r = (s, none)) ∨
    (s.enc.busy = true ∧ s.enc.llen ≤ 15 ∧ s.enc.cnt ≤ 254 ∧ s.enc.idx < s.params.encL ∧ r = encScan s) ∨
    (s.enc.busy = true ∧ s.enc.llen ≤ 15 ∧ s.enc.cnt ≤ 254 ∧ s.enc.idx = s.params.encL ∧ r = encFlush s) := by
  unfold encNext at h
  split at h
  · rename_i hb
    cases h
    exact .inl ⟨hb, rfl⟩
  · rename_i hb
    split at h
    · cases h
    · rename_i hcap
      simp only [Config.litCap, Config.repCap] at hcap
      simp only [Bool.not_eq_false] at hb
      split at h
      · rename_i hi
        cases h
        exact .inr (.inl ⟨hb, by omega, by omega, hi, rfl⟩)
      · split at h
        · rename_i hi
          cases h
          exact .inr (.inr ⟨hb, by omega, by omega, hi, rfl⟩)
        · cases h

/-- The next step of ENC writes the sending half and nothing else (rule R41). -/
theorem encNext_writes_enc {s u : State} {c : Option Chunk} (h : encNext s = .next (u, c)) : u = s.setEnc u.enc := by
  rcases encNext_cases h with ⟨-, hr⟩ | ⟨-, -, -, -, hr⟩ | ⟨-, -, -, -, hr⟩
  · cases hr
    rfl
  · rw [show u = (encScan s).1 by rw [← hr]]
    rfl
  · rw [show u = (encFlush s).1 by rw [← hr]]
    rfl

/-! ## The flush -/

/-- The pending item goes out first, and the registers keep what they hold (rule R99). -/
theorem rleFlushNext_of_pending {e : Enc} {c : Chunk} (he : e.ending = false) (h : flushPending e = some c) :
    rleFlushNext e = ({ e with ending := true }, c) := by
  simp [rleFlushNext, he, h]

/-- Then `End`, and the registers go back (rule R99). -/
theorem rleFlushNext_of_end {e : Enc} (h : e.ending = true ∨ flushPending e = none) :
    rleFlushNext e =
      ({ e with llen := 0, cnt := 0, mode := .idle, idx := 0, first := false, busy := false, ending := false }, .endMark) := by
  rcases h with h | h <;> simp [rleFlushNext, h]

/-- The pending item of a flush is never `End`. -/
theorem flushPending_ne_end {e : Enc} {c : Chunk} (h : flushPending e = some c) : c ≠ .endMark := by
  unfold flushPending at h
  split at h
  · cases h
  · obtain ⟨_, rfl⟩ := Chunk.ofBytes_eq_some h
    simp
  · obtain ⟨_, rfl⟩ := Chunk.ofRun_eq_some h
    simp

/-! ## The scan -/

/-- Sending nothing changes nothing. -/
theorem sendBytes_nil (s : State) : sendBytes s [] = s := by simp [sendBytes, State.setBytes]

/-- One iteration of the scan, written out (rules R80, R82). -/
theorem encScan_eq (s : State) :
    encScan s =
      (let w := deltaByte (encXorActive s) (memRead s .frame s.enc.idx) (memRead s .txb s.enc.idx)
       let s' := memWrite s .txb s.enc.idx (memRead s .frame s.enc.idx)
       let p := rlePush w { s'.enc with idx := s.enc.idx + 1 }
       (s'.setEnc p.1, p.2)) := rfl

/-- `RLE.PUSH` writes the run-length registers and no other. -/
theorem rlePush_frame (w : Byte) (e : Enc) :
    (rlePush w e).1.txb = e.txb ∧ (rlePush w e).1.first = e.first ∧ (rlePush w e).1.idx = e.idx ∧
      (rlePush w e).1.busy = e.busy ∧ (rlePush w e).1.ending = e.ending ∧ (rlePush w e).1.prev = w := by
  unfold rlePush rleFirst rleRunAfterCap rleLiteralToRun rleExtend rleLiteralCap rleRun rleRunToLiteral Enc.startLiteral
    Enc.appendLiteral
  split
  · simp
  · split
    · split <;> simp
    · split <;> simp
  · split
    · split <;> simp
    · simp

end Sys2Proof.Machine
end

