-- ==== Sys2Proof/Laws/Compositions.lean ====
section
/-! SUPPORT. What a step of the chunk-level and of the direct composition is, by the move it makes (rule R195). -/

namespace Sys2Proof.Machine

/-! ## The chunk-level composition -/

theorem chunkStep_scheduled {c : ChunkSystem} {m : Move} {ms : List Move} (h : c.sys.schedule = m :: ms) :
    chunkStep c = chunkMove m { c with sys := c.sys.setSchedule ms } := by
  unfold chunkStep
  rw [h]

/-- A step of ENC that emits nothing. -/
theorem chunkEncTurn_of_silent {c : ChunkSystem} {t : State} (h : encNext c.sys = .next (t, none)) :
    chunkEncTurn c = .next { c with sys := t } := by
  unfold chunkEncTurn
  rw [h]

/-- The chunk channel takes ENC's chunk. -/
theorem chunkEncTurn_of_ready {c : ChunkSystem} {t : State} {k : Chunk} (hr : c.sys.chan.txReady = true)
    (h : encNext c.sys = .next (t, some k)) :
    chunkEncTurn c = .next { sys := chunkTaken k t, chunks := c.chunks ++ [k] } := by
  unfold chunkEncTurn
  rw [h]
  simp only [hr, if_true]

/-- The chunk channel is not ready: ENC waits. -/
theorem chunkEncTurn_of_not_ready {c : ChunkSystem} {t : State} {k : Chunk} (hr : c.sys.chan.txReady = false)
    (h : encNext c.sys = .next (t, some k)) : chunkEncTurn c = .next c := by
  unfold chunkEncTurn
  rw [h]
  simp [hr]

/-- The oldest chunk is delivered. -/
theorem chunkDecTurn_of_canTake {s : State} {k : Chunk} {ks : List Chunk} (hv : s.chan.rxValid = true)
    (hf : s.dec.fault = .none) : chunkDecTurn ⟨s, k :: ks⟩ = ⟨deliver k s, ks⟩ := by
  simp [chunkDecTurn, chunkCanTake, rxReady, hv, hf]

/-- No chunk can be taken: nothing changes. -/
theorem chunkDecTurn_of_not_canTake {c : ChunkSystem} (h : chunkCanTake c = false) : chunkDecTurn c = c := by
  unfold chunkDecTurn
  split <;> simp [h]

/-! ## The direct composition -/

theorem directStep_scheduled {s : State} {m : Move} {ms : List Move} (h : s.schedule = m :: ms) :
    directStep s = directMove m (s.setSchedule ms) := by
  unfold directStep
  rw [h]

/-- A step of ENC that emits nothing. -/
theorem directEncTurn_of_silent {s t : State} (h : encNext s = .next (t, none)) : directEncTurn s = .next t :=
  encTurnInto_silent h

/-- The decoder's operation runs on ENC's chunk. -/
theorem directEncTurn_of_no_fault {s t : State} {k : Chunk} (hf : s.dec.fault = .none)
    (h : encNext s = .next (t, some k)) : directEncTurn s = .next (chunkTaken k (deliver k t)) := by
  simp [directEncTurn, encTurnInto, h, rxReady, hf]

/-- While a fault is held a step of ENC that would emit waits. -/
theorem directEncTurn_of_fault {s t : State} {k : Chunk} (hf : s.dec.fault ≠ .none)
    (h : encNext s = .next (t, some k)) : directEncTurn s = .next s := by
  simp [directEncTurn, encTurnInto, h, rxReady, hf]

end Sys2Proof.Machine
end

