-- ==== Sys2Proof/Laws/Frames.lean ====
section
/-! SUPPORT. The laws of whole frames: pushes one after the other, and the parts of a chunk sequence (41_rle_encoder.md rule R101,
44_chunk_serializer.md rule R130). -/

namespace Sys2Proof.Machine

theorem rlePushAll_cons (w : Byte) (ws : List Byte) (e : Enc) :
    rlePushAll (w :: ws) e =
      ((rlePushAll ws (rlePush w e).1).1, (rlePush w e).2.toList ++ (rlePushAll ws (rlePush w e).1).2) := rfl

theorem rlePushAll_append (us vs : List Byte) (e : Enc) :
    rlePushAll (us ++ vs) e =
      ((rlePushAll vs (rlePushAll us e).1).1, (rlePushAll us e).2 ++ (rlePushAll vs (rlePushAll us e).1).2) := by
  induction us generalizing e with
  | nil => simp [rlePushAll]
  | cons u us ih => simp only [List.cons_append, rlePushAll_cons, ih, List.append_assoc]

/-- `RleEncode` in one line: what the pushes emit, what is pending, `End` (rule R101). -/
theorem rleEncode_eq (ws : List Byte) :
    rleEncode ws =
      (rlePushAll ws Enc.reset).2 ++ ((flushPending (rlePushAll ws Enc.reset).1).toList ++ [.endMark]) := rfl

/-- The chunks of `Encode(F)` are `RleEncode` of the delta stream (rule R101). -/
theorem encodeChunks_eq (s : State) :
    encodeChunks s = rleEncode (deltaStream (encXorActive s) (readAll s .frame) (readAll s .txb)) := rfl

/-- What `Encode(F)` leaves in `TXB` and `ENC_FIRST` (rules R86, R99). -/
theorem encodeFrame_leaves (s : State) : (encodeFrame s).txb = readAll s .frame ∧ (encodeFrame s).first = false := ⟨rfl, rfl⟩

theorem expandAll_append (cs ds : List Chunk) : expandAll (cs ++ ds) = expandAll cs ++ expandAll ds := by simp [expandAll]

theorem serAll_append (cs ds : List Chunk) : serAll (cs ++ ds) = serAll cs ++ serAll ds := by simp [serAll]

theorem deliverAll_append (cs ds : List Chunk) (s : State) : deliverAll (cs ++ ds) s = deliverAll ds (deliverAll cs s) := by
  simp [deliverAll]

theorem readAll_length (s : State) (sp : Space) : (readAll s sp).length = s.spaceLength sp := by simp [readAll]

end Sys2Proof.Machine
end

