-- ==== Sys2Proof/Laws/Wire.lean ====
section
/-! SUPPORT. The tag codec in numbers: the bytes of a tag, the tag of two bytes, and its class (30_encoding.md rules R65 to R70). -/

namespace Sys2Proof

theorem tagLow_toNat (tag : TagWord) : (tagLow tag).toNat = tag.toNat % 256 := by
  simp [tagLow]

theorem tagHigh_toNat (tag : TagWord) : (tagHigh tag).toNat = tag.toNat / 256 := by
  have h : tag.toNat < 65536 := tag.isLt
  simp [tagHigh, Nat.shiftRight_eq_div_pow]
  omega

theorem tagOfBytes_toNat (lo hi : Byte) : (tagOfBytes lo hi).toNat = hi.toNat * 256 + lo.toNat := by
  have h : lo.toNat < 2 ^ 8 := lo.isLt
  unfold tagOfBytes
  rw [BitVec.toNat_append, Nat.shiftLeft_eq, ← Nat.shiftLeft_eq, ← Nat.shiftLeft_add_eq_or_of_lt h, Nat.shiftLeft_eq]

/-- The two bytes of a tag give it back. -/
@[simp] theorem tagOfBytes_low_high (tag : TagWord) : tagOfBytes (tagLow tag) (tagHigh tag) = tag := by
  apply BitVec.eq_of_toNat_eq
  rw [tagOfBytes_toNat, tagLow_toNat, tagHigh_toNat]
  omega

@[simp] theorem tagLow_tagOfBytes (lo hi : Byte) : tagLow (tagOfBytes lo hi) = lo := by
  apply BitVec.eq_of_toNat_eq
  have h : lo.toNat < 256 := lo.isLt
  rw [tagLow_toNat, tagOfBytes_toNat]
  omega

@[simp] theorem tagHigh_tagOfBytes (lo hi : Byte) : tagHigh (tagOfBytes lo hi) = hi := by
  apply BitVec.eq_of_toNat_eq
  have h : lo.toNat < 256 := lo.isLt
  rw [tagHigh_toNat, tagOfBytes_toNat]
  omega

/-- The class of a tag by its unsigned value, the rows of rule R69 in order. -/
theorem classifyTag_eq (tag : TagWord) :
    classifyTag tag =
      if tag.toNat = 0 then .endMark
      else if tag.toNat ≤ 16 then .literal tag.toNat
      else if tag.toNat ≤ 0xFF01 then .reserved
      else .rep (65537 - tag.toNat) := by
  have h : tag.toNat < 65536 := tag.isLt
  have hl : (Config.litCap : Int) = 16 := rfl
  have hr : (Config.repCap : Int) = 255 := rfl
  unfold classifyTag runOfTag
  simp only [hl, hr]
  split_ifs <;> first | rfl | omega | (congr 1; omega)

/-- The tag of a repeat's run, for a count the wire can express (rule R128). -/
theorem tagOfRun_repeat_toNat {count : Nat} (h1 : 2 ≤ count) (h2 : count ≤ 255) :
    (tagOfRun (1 - (count : Int))).toNat = 65537 - count := by
  unfold tagOfRun
  rw [BitVec.toNat_ofInt, show (2 ^ Config.tagBits : Nat) = 65536 from rfl]
  omega

/-- The run of a tag, by its unsigned value (rule R66). -/
theorem runOfTag_of_rep {tag : TagWord} (h : 0xFF02 ≤ tag.toNat) : (1 - runOfTag tag).toNat = 65537 - tag.toNat := by
  have := tag.isLt
  unfold runOfTag
  rw [if_neg (by omega)]
  omega

end Sys2Proof
end

