-- ==== Sys2Proof/Laws/Instr.lean ====
section
/-! SUPPORT. The decoder's rows and the meanings of the instructions, by what they deliver (30_encoding.md rule R69,
45_chunk_deserializer.md rules R140, R141). -/

namespace Sys2Proof.Machine

/-! ## The rows -/

theorem literalInstr_row {p : List Byte} (h1 : 1 ≤ p.length) (h2 : p.length ≤ 16) :
    ∃ i h, literalInstr p = some i ∧ chunkOf i = some (.literal p h) ∧ i.wf = true ∧ encode i = wireLiteral p := by
  have row : ∃ i, literalInstr p = some i ∧ chunkOf i = Chunk.ofBytes p ∧ i.wf = true ∧ encode i = wireLiteral p := by
    unfold literalInstr
    generalize hn : p.length = n at *
    interval_cases n <;> exact ⟨_, rfl, rfl, by simp [Instr.wf, hn], rfl⟩
  obtain ⟨i, hi, hc, hr⟩ := row
  exact ⟨i, ⟨h1, h2⟩, hi, hc.trans (Chunk.ofBytes_legal _), hr⟩

theorem repeatInstr_row {k : Nat} (b : Byte) (h1 : 2 ≤ k) (h2 : k ≤ 255) :
    ∃ i h, repeatInstr k b = some i ∧ chunkOf i = some (.rep b k h) ∧ i.wf = true ∧ encode i = wireRepeat k b := by
  have hk : 1 ≤ k ∧ k ≤ Config.repCap := ⟨by omega, h2⟩
  have hc := Chunk.ofRun_legal (byte := b) hk
  unfold repeatInstr
  split_ifs <;> first | exact ⟨_, hk, rfl, hc, by simp [Instr.wf]; omega, rfl⟩ | omega

/-- What holds of both branches holds of the choice. -/
theorem ite_holds {α : Type} {P : α → Prop} {c : Prop} [Decidable c] {a b : α} (ha : c → P a) (hb : ¬c → P b) :
    P (if c then a else b) := by
  split
  · exact ha ‹c›
  · exact hb ‹¬c›

/-- The row the decoder picks for a reserved tag is that tag's own row. -/
theorem reservedInstr_row {tag : TagWord} (h : classifyTag tag = .reserved) :
    chunkOf (reservedInstr tag) = none ∧ (reservedInstr tag).wf = true ∧ encode (reservedInstr tag) = wireTag tag := by
  have hr : 17 ≤ tag.toNat ∧ tag.toNat ≤ 0xFF01 := by
    rw [classifyTag_eq] at h
    by_contra hc
    split_ifs at h
    omega
  unfold reservedInstr
  repeat' refine ite_holds (P := fun i => chunkOf i = none ∧ i.wf = true ∧ encode i = wireTag tag) (fun _ => ?_) (fun _ => ?_)
  all_goals exact ⟨rfl, by simp only [Instr.wf, Bool.and_eq_true, decide_eq_true_eq]; omega, rfl⟩

/-- The literal rows are picked by the payload's length. -/
theorem literalInstr_wf {p : List Byte} {i : Instr} (h : literalInstr p = some i) : i.wf = true := by
  unfold literalInstr at h
  split at h <;> first | (cases h; simpa [Instr.wf] using ‹p.length = _›) | cases h

/-- The repeat rows are picked by the count. -/
theorem repeatInstr_wf {k : Nat} {b : Byte} {i : Instr} (h : repeatInstr k b = some i) : i.wf = true := by
  unfold repeatInstr at h
  split_ifs at h <;> cases h <;> simp only [Instr.wf, Bool.and_eq_true, decide_eq_true_eq] <;> omega

/-- Whatever instruction a byte completes is well formed, in every register combination (rules R137 to R141). -/
theorem desAccept_wf {d d' : Des} {x : Byte} {i : Instr} (h : desAccept d x = (d', some i)) : i.wf = true := by
  unfold desAccept at h
  split at h
  · cases h
  · unfold desTag1 at h
    simp only at h
    split at h
    · cases h
      rfl
    · cases h
    · cases h
    · cases h
      exact (reservedInstr_row ‹_›).2.1
  · unfold desLit at h
    simp only at h
    split at h
    · exact literalInstr_wf (Prod.mk.inj h).2
    · cases h
  · exact repeatInstr_wf (Prod.mk.inj h).2

/-! ## The meanings -/

/-- An instruction with a chunk delivers it (rule R140). -/
theorem exec_of_chunk {i : Instr} {c : Chunk} (h : chunkOf i = some c) (s : State) : exec i s = .next (deliver c s) := by
  have hc : ∀ o, o = some c → carry o s = .next (deliver c s) := fun o ho => by rw [ho]; rfl
  cases i <;> first | exact hc _ h | cases h

/-- A well-formed instruction without one raises `MALFORMED_TAG` (rule R141). -/
theorem exec_of_reserved {i : Instr} (hw : i.wf = true) (h : chunkOf i = none) (s : State) : exec i s = .next (malformedTag s) := by
  cases i <;> first
    | rfl
    | cases h
    | (simp only [Instr.wf, beq_iff_eq] at hw
       simp only [chunkOf] at h
       rw [Chunk.ofBytes_legal ⟨by omega, by simp only [Config.litCap]; omega⟩] at h
       cases h)
    | (simp only [Instr.wf, Bool.and_eq_true, decide_eq_true_eq] at hw
       simp only [chunkOf] at h
       rw [Chunk.ofRun_legal ⟨by omega, by simp only [Config.repCap]; omega⟩] at h
       cases h)

/-- No well-formed instruction stops the machine. -/
theorem exec_next {i : Instr} (hw : i.wf = true) (s : State) : ∃ t, exec i s = .next t := by
  cases h : chunkOf i with
  | none => exact ⟨_, exec_of_reserved hw h s⟩
  | some c => exact ⟨_, exec_of_chunk h s⟩

theorem malformedTag_of_none {s : State} (h : s.dec.fault = .none) : malformedTag s = raiseFault s .malformedTag :=
  accepting_of_none h

end Sys2Proof.Machine
end

