-- ==== Sys2Proof/Laws/PerInstr.lean ====
section
/-! SUPPORT. The law stated for each instruction: the tag alone tells the length of its serialized form (30_encoding.md rule R68). -/

namespace Sys2Proof.Laws.TagTellsLength

/-- A well-formed instruction has as many bytes on the wire as its tag says. -/
def Statement (i : Instr) : Prop := i.wf = true → (encode i).length = Sys2Proof.Machine.wireLength (encode i)

/-- A literal of 1 to 16 bytes. -/
theorem literal_length {payload : List Byte} (h : 1 ≤ payload.length ∧ payload.length ≤ 16) :
    (wireLiteral payload).length = Sys2Proof.Machine.wireLength (wireLiteral payload) := by
  have e : (tagOfBytes (BitVec.ofNat 8 payload.length) 0x00).toNat = payload.length := by
    rw [tagOfBytes_toNat, BitVec.toNat_ofNat]
    simp
    omega
  simp only [wireLiteral, Sys2Proof.Machine.wireLength, classifyTag_eq, e]
  rw [if_neg (by omega), if_pos h.2]
  simp [TagClass.payloadLength]
  omega

/-- A repeat of a count from 2 to 255. -/
theorem repeat_length {count : Nat} (byte : Byte) (h : 2 ≤ count ∧ count ≤ 255) :
    (wireRepeat count byte).length = Sys2Proof.Machine.wireLength (wireRepeat count byte) := by
  simp only [wireRepeat, Sys2Proof.Machine.wireLength, tagOfBytes_low_high, classifyTag_eq, tagOfRun_repeat_toNat h.1 h.2]
  rw [if_neg (by omega), if_neg (by omega), if_neg (by omega)]
  rfl

/-- A reserved tag. -/
theorem reserved_length {tag : TagWord} (h : 17 ≤ tag.toNat ∧ tag.toNat ≤ 0xFF01) :
    (wireTag tag).length = Sys2Proof.Machine.wireLength (wireTag tag) := by
  simp only [wireTag, Sys2Proof.Machine.wireLength, tagOfBytes_low_high, classifyTag_eq]
  rw [if_neg (by omega), if_neg (by omega), if_pos h.2]
  rfl

theorem endFrame : Statement .endFrame := fun _ => by decide

theorem lit1 (payload : List Byte) : Statement (.lit1 payload) := fun h =>
  literal_length (by simp [Instr.wf] at h; omega)

theorem lit2 (payload : List Byte) : Statement (.lit2 payload) := fun h =>
  literal_length (by simp [Instr.wf] at h; omega)

theorem lit3 (payload : List Byte) : Statement (.lit3 payload) := fun h =>
  literal_length (by simp [Instr.wf] at h; omega)

theorem lit4 (payload : List Byte) : Statement (.lit4 payload) := fun h =>
  literal_length (by simp [Instr.wf] at h; omega)

theorem lit5 (payload : List Byte) : Statement (.lit5 payload) := fun h =>
  literal_length (by simp [Instr.wf] at h; omega)

theorem lit6 (payload : List Byte) : Statement (.lit6 payload) := fun h =>
  literal_length (by simp [Instr.wf] at h; omega)

theorem lit7 (payload : List Byte) : Statement (.lit7 payload) := fun h =>
  literal_length (by simp [Instr.wf] at h; omega)

theorem lit8 (payload : List Byte) : Statement (.lit8 payload) := fun h =>
  literal_length (by simp [Instr.wf] at h; omega)

theorem lit9 (payload : List Byte) : Statement (.lit9 payload) := fun h =>
  literal_length (by simp [Instr.wf] at h; omega)

theorem lit10 (payload : List Byte) : Statement (.lit10 payload) := fun h =>
  literal_length (by simp [Instr.wf] at h; omega)

theorem lit11 (payload : List Byte) : Statement (.lit11 payload) := fun h =>
  literal_length (by simp [Instr.wf] at h; omega)

theorem lit12 (payload : List Byte) : Statement (.lit12 payload) := fun h =>
  literal_length (by simp [Instr.wf] at h; omega)

theorem lit13 (payload : List Byte) : Statement (.lit13 payload) := fun h =>
  literal_length (by simp [Instr.wf] at h; omega)

theorem lit14 (payload : List Byte) : Statement (.lit14 payload) := fun h =>
  literal_length (by simp [Instr.wf] at h; omega)

theorem lit15 (payload : List Byte) : Statement (.lit15 payload) := fun h =>
  literal_length (by simp [Instr.wf] at h; omega)

theorem lit16 (payload : List Byte) : Statement (.lit16 payload) := fun h =>
  literal_length (by simp [Instr.wf] at h; omega)

theorem rep2To129 (count : Nat) (byte : Byte) : Statement (.rep2To129 count byte) := fun h =>
  repeat_length byte (by simp [Instr.wf] at h; omega)

theorem rep130To193 (count : Nat) (byte : Byte) : Statement (.rep130To193 count byte) := fun h =>
  repeat_length byte (by simp [Instr.wf] at h; omega)

theorem rep194To225 (count : Nat) (byte : Byte) : Statement (.rep194To225 count byte) := fun h =>
  repeat_length byte (by simp [Instr.wf] at h; omega)

theorem rep226To241 (count : Nat) (byte : Byte) : Statement (.rep226To241 count byte) := fun h =>
  repeat_length byte (by simp [Instr.wf] at h; omega)

theorem rep242To249 (count : Nat) (byte : Byte) : Statement (.rep242To249 count byte) := fun h =>
  repeat_length byte (by simp [Instr.wf] at h; omega)

theorem rep250To253 (count : Nat) (byte : Byte) : Statement (.rep250To253 count byte) := fun h =>
  repeat_length byte (by simp [Instr.wf] at h; omega)

theorem rep254To255 (count : Nat) (byte : Byte) : Statement (.rep254To255 count byte) := fun h =>
  repeat_length byte (by simp [Instr.wf] at h; omega)

theorem reserved0 (tag : TagWord) : Statement (.reserved0 tag) := fun h =>
  reserved_length (by simp [Instr.wf] at h; omega)

theorem reserved1 (tag : TagWord) : Statement (.reserved1 tag) := fun h =>
  reserved_length (by simp [Instr.wf] at h; omega)

theorem reserved2 (tag : TagWord) : Statement (.reserved2 tag) := fun h =>
  reserved_length (by simp [Instr.wf] at h; omega)

theorem reserved3 (tag : TagWord) : Statement (.reserved3 tag) := fun h =>
  reserved_length (by simp [Instr.wf] at h; omega)

theorem reserved4 (tag : TagWord) : Statement (.reserved4 tag) := fun h =>
  reserved_length (by simp [Instr.wf] at h; omega)

theorem reserved5 (tag : TagWord) : Statement (.reserved5 tag) := fun h =>
  reserved_length (by simp [Instr.wf] at h; omega)

theorem reserved6 (tag : TagWord) : Statement (.reserved6 tag) := fun h =>
  reserved_length (by simp [Instr.wf] at h; omega)

theorem reserved7 (tag : TagWord) : Statement (.reserved7 tag) := fun h =>
  reserved_length (by simp [Instr.wf] at h; omega)

theorem reserved8 (tag : TagWord) : Statement (.reserved8 tag) := fun h =>
  reserved_length (by simp [Instr.wf] at h; omega)

theorem reserved9 (tag : TagWord) : Statement (.reserved9 tag) := fun h =>
  reserved_length (by simp [Instr.wf] at h; omega)

theorem reserved10 (tag : TagWord) : Statement (.reserved10 tag) := fun h =>
  reserved_length (by simp [Instr.wf] at h; omega)

theorem reserved11 (tag : TagWord) : Statement (.reserved11 tag) := fun h =>
  reserved_length (by simp [Instr.wf] at h; omega)

theorem reserved12 (tag : TagWord) : Statement (.reserved12 tag) := fun h =>
  reserved_length (by simp [Instr.wf] at h; omega)

theorem reserved13 (tag : TagWord) : Statement (.reserved13 tag) := fun h =>
  reserved_length (by simp [Instr.wf] at h; omega)

theorem reserved14 (tag : TagWord) : Statement (.reserved14 tag) := fun h =>
  reserved_length (by simp [Instr.wf] at h; omega)

theorem reserved15 (tag : TagWord) : Statement (.reserved15 tag) := fun h =>
  reserved_length (by simp [Instr.wf] at h; omega)

theorem reserved16 (tag : TagWord) : Statement (.reserved16 tag) := fun h =>
  reserved_length (by simp [Instr.wf] at h; omega)

theorem reserved17 (tag : TagWord) : Statement (.reserved17 tag) := fun h =>
  reserved_length (by simp [Instr.wf] at h; omega)

theorem reserved18 (tag : TagWord) : Statement (.reserved18 tag) := fun h =>
  reserved_length (by simp [Instr.wf] at h; omega)

theorem reserved19 (tag : TagWord) : Statement (.reserved19 tag) := fun h =>
  reserved_length (by simp [Instr.wf] at h; omega)

theorem reserved20 (tag : TagWord) : Statement (.reserved20 tag) := fun h =>
  reserved_length (by simp [Instr.wf] at h; omega)

theorem reserved21 (tag : TagWord) : Statement (.reserved21 tag) := fun h =>
  reserved_length (by simp [Instr.wf] at h; omega)

end Sys2Proof.Laws.TagTellsLength
end

