-- ==== Sys2Proof/Laws/Reset.lean ====
section
/-! SUPPORT. The two resets as one record each (70_reset_and_hazards.md rules R181, R182). -/

namespace Sys2Proof.Machine

theorem resetEnc_eq (s : State) : resetEnc s = { s with enc := Enc.reset } := rfl

theorem resetDec_eq (s : State) : resetDec s = { s with dec := Dec.reset (s.dec.epoch + 1) } := rfl

end Sys2Proof.Machine
end

