-- ==== Sys2Proof/Laws/Step.lean ====
section
/-! SUPPORT. What a step is, by the move it makes, and runs of several steps. -/

namespace Sys2Proof.Machine

/-! ## One step -/

theorem step_scheduled {s : State} {m : Move} {ms : List Move} (h : s.schedule = m :: ms) :
    step s = makeMove m (s.setSchedule ms) := by
  unfold step
  rw [h]

theorem step_unscheduled {s : State} (h : s.schedule = []) : step s = autoMove s := by
  unfold step
  rw [h]

/-- A transfer happens: the byte leaves the channel and `DES.BYTE` runs on it (rule R135). -/
theorem decTurn_of_offers {s : State} {x : Byte} {rest : List Byte} (h : s.Offers x rest) :
    decTurn s = desByte x (s.setBytes rest) := by
  unfold decTurn decCanTake rxReady
  simp [h.bytes, h.valid, h.no_fault]

/-- No transfer can happen: nothing changes (rules R143, R168). -/
theorem decTurn_of_not_canTake {s : State} (h : decCanTake s = false) : decTurn s = .next s := by
  unfold decTurn
  split <;> simp [h]

/-- When a transfer can happen, some byte is offered. -/
theorem offers_of_canTake {s : State} (h : decCanTake s = true) : ∃ x rest, s.Offers x rest := by
  simp only [decCanTake, rxReady, Bool.and_eq_true, decide_eq_true_eq] at h
  obtain ⟨⟨hv, hb⟩, hf⟩ := h
  match he : s.chan.bytes with
  | [] => simp [he] at hb
  | x :: rest => exact ⟨x, rest, he, hv, hf⟩

/-- The byte completes no instruction. -/
theorem desByte_of_none {s : State} {x : Byte} {d : Des} (h : desAccept s.dec.des x = (d, none)) :
    desByte x s = .next (s.setDes d) := by
  unfold desByte
  rw [h]

/-- The byte completes an instruction, which runs in the same step (rule R140). -/
theorem desByte_of_some {s : State} {x : Byte} {d : Des} {i : Instr} (h : desAccept s.dec.des x = (d, some i)) :
    desByte x s = exec i (s.setDes d) := by
  unfold desByte
  rw [h]

/-- A step of ENC with nothing to encode changes nothing. -/
theorem encTurn_of_not_busy {s : State} (h : s.enc.busy = false) : encTurn s = .next s :=
  encTurnInto_silent (encNext_of_not_busy h)

/-- A step of ENC that emits nothing. -/
theorem encTurn_of_silent {s t : State} (h : encNext s = .next (t, none)) : encTurn s = .next t := encTurnInto_silent h

/-- A step of ENC whose chunk the channel accepts (rules R105, R125). -/
theorem encTurn_of_ready {s t : State} {c : Chunk} (hr : s.chan.txReady = true) (h : encNext s = .next (t, some c)) :
    encTurn s = .next (chunkTaken c (sendChunk c t)) := by
  rw [encTurn, hr]
  exact encTurnInto_ready h

/-- A step of ENC whose chunk the channel does not accept (rules R105, R131). -/
theorem encTurn_of_not_ready {s t : State} {c : Chunk} (hr : s.chan.txReady = false) (h : encNext s = .next (t, some c)) :
    encTurn s = .next s := by
  rw [encTurn, hr]
  exact encTurnInto_waits h

/-! ## What a chunk leaves alone, what a turn of DEC can do -/

/-- No chunk reaches outside the receiving half, or into the deserializer (rules R41, R110). -/
theorem rld_outside (c : Chunk) (s : State) :
    SameOutsideReceiver s (rld c s) ∧ (rld c s).dec.des = s.dec.des ∧ (rld c s).dec.epoch = s.dec.epoch := by
  by_cases hc : c = .endMark
  · subst hc
    show SameOutsideReceiver s (rldEnd s) ∧ (rldEnd s).dec.des = s.dec.des ∧ (rldEnd s).dec.epoch = s.dec.epoch
    unfold rldEnd
    split
    · exact ⟨by constructor <;> simp, by simp, by simp⟩
    · exact ⟨by constructor <;> rfl, rfl, rfl⟩
  · rw [rld_payload hc]
    unfold rldBytes
    split
    · exact ⟨by constructor <;> rfl, rfl, rfl⟩
    · exact ⟨by constructor <;> simp, by simp, by simp⟩

/-- Everything a turn of DEC can do: nothing; or, with no fault held, take a byte and then go on, raise `MALFORMED_TAG`, or run a
chunk (rules R135, R140, R141). -/
theorem decTurn_cases {s t : State} (h : decTurn s = .next t) :
    t = s ∨ ∃ bs d, s.dec.fault = .none ∧
      (t = (s.setBytes bs).setDes d ∨ t = ((s.setBytes bs).setDes d).setFault .malformedTag ∨
        ∃ c, t = rld c ((s.setBytes bs).setDes d)) := by
  by_cases hc : decCanTake s = true
  · obtain ⟨x, rest, ho⟩ := offers_of_canTake hc
    rw [decTurn_of_offers ho] at h
    rcases hacc : desAccept s.dec.des x with ⟨d, oi⟩
    refine .inr ⟨rest, d, ho.no_fault, ?_⟩
    cases oi with
    | none =>
      rw [desByte_of_none (s := s.setBytes rest) hacc] at h
      cases h
      exact .inl rfl
    | some i =>
      rw [desByte_of_some (s := s.setBytes rest) hacc] at h
      cases hci : chunkOf i with
      | none =>
        rw [exec_of_reserved (desAccept_wf hacc) hci, malformedTag_of_none (s := (s.setBytes rest).setDes d) ho.no_fault] at h
        cases h
        exact .inr (.inl rfl)
      | some c =>
        rw [exec_of_chunk hci, deliver, accepting_of_none (s := (s.setBytes rest).setDes d) ho.no_fault] at h
        cases h
        exact .inr (.inr ⟨c, rfl⟩)
  · rw [decTurn_of_not_canTake (by simpa using hc)] at h
    cases h
    exact .inl rfl

/-- Every step that answers a next state is a turn of DEC, a turn of ENC, no change, or a move of a host or the channel. -/
theorem step_cases {s t : State} (h : step s = .next t) :
    (∃ ms, decTurn (s.setSchedule ms) = .next t) ∨ (∃ ms, encTurn (s.setSchedule ms) = .next t) ∨ t = s ∨
    (∃ m ms, s.schedule = m :: ms ∧ m ≠ .decTurn ∧ m ≠ .encTurn ∧ makeMove m (s.setSchedule ms) = .next t) := by
  cases hs : s.schedule with
  | nil =>
    rw [step_unscheduled hs] at h
    have e : s = s.setSchedule [] := by
      rw [State.setSchedule, ← hs]
    unfold autoMove at h
    split at h
    · rw [e] at h
      exact .inl ⟨_, h⟩
    · split at h
      · rw [e] at h
        exact .inr (.inl ⟨_, h⟩)
      · cases h
        exact .inr (.inr (.inl rfl))
  | cons m ms =>
    rw [step_scheduled hs] at h
    by_cases hd : m = .decTurn
    · subst hd
      exact .inl ⟨_, h⟩
    · by_cases he : m = .encTurn
      · subst he
        exact .inr (.inl ⟨_, h⟩)
      · exact .inr (.inr (.inr ⟨m, ms, rfl, hd, he, h⟩))

/-! ## Several steps -/

theorem run_zero (s : State) : Host.Core.run Sys2Proof.core 0 s = .next s := rfl

theorem run_succ_of_next {s t : State} (n : Nat) (h : step s = .next t) :
    Host.Core.run Sys2Proof.core (n + 1) s = Host.Core.run Sys2Proof.core n t := by
  have e : Sys2Proof.core.step s = .next t := h
  simp only [Host.Core.run, e]

theorem run_succ_of_fault {s : State} {r : Fault} (n : Nat) (h : step s = .fault r) :
    Host.Core.run Sys2Proof.core (n + 1) s = .fault r := by
  have e : Sys2Proof.core.step s = .fault r := h
  simp only [Host.Core.run, e]

theorem run_succ_of_refused {s : State} {r : Refusal} (n : Nat) (h : step s = .refused r) :
    Host.Core.run Sys2Proof.core (n + 1) s = .refused r := by
  have e : Sys2Proof.core.step s = .refused r := h
  simp only [Host.Core.run, e]

/-- One step. -/
theorem run_one (s : State) : Host.Core.run Sys2Proof.core 1 s = step s := by
  cases h : step s with
  | next t => exact run_succ_of_next 0 h
  | fault r => exact run_succ_of_fault 0 h
  | refused r => exact run_succ_of_refused 0 h

/-- A run of `m + n` steps is a run of `n` from where `m` steps lead. -/
theorem run_add_of_next {s t : State} (m n : Nat) (h : Host.Core.run Sys2Proof.core m s = .next t) :
    Host.Core.run Sys2Proof.core (m + n) s = Host.Core.run Sys2Proof.core n t := by
  induction m generalizing s with
  | zero =>
    cases h
    rw [Nat.zero_add]
  | succ m ih =>
    rw [Nat.succ_add]
    cases hs : step s with
    | next u =>
      rw [run_succ_of_next _ hs] at h ⊢
      exact ih h
    | fault r =>
      rw [run_succ_of_fault _ hs] at h
      cases h
    | refused r =>
      rw [run_succ_of_refused _ hs] at h
      cases h

end Sys2Proof.Machine
end

