-- ==== Sys2Proof/Tests/Slice0.lean ====
section
/-! SUPPORT. The model's own tests: ill-formed terms that the check refuses, words written out from the spec's encodings, single
operations with the results of 95_test_vectors.md, and for every statement with hypotheses a witness that meets them. -/

namespace Sys2Proof.Tests

open Sys2Proof.Machine

/-! ## WellFormed -/

/-- A literal with one payload byte too few is ill-formed, for each of the sixteen rows (rules R61, R69). -/
theorem test_wf_literal_short :
    (Instr.lit1 (List.replicate 0 0x07)).wf = false ∧
    (Instr.lit2 (List.replicate 1 0x07)).wf = false ∧
    (Instr.lit3 (List.replicate 2 0x07)).wf = false ∧
    (Instr.lit4 (List.replicate 3 0x07)).wf = false ∧
    (Instr.lit5 (List.replicate 4 0x07)).wf = false ∧
    (Instr.lit6 (List.replicate 5 0x07)).wf = false ∧
    (Instr.lit7 (List.replicate 6 0x07)).wf = false ∧
    (Instr.lit8 (List.replicate 7 0x07)).wf = false ∧
    (Instr.lit9 (List.replicate 8 0x07)).wf = false ∧
    (Instr.lit10 (List.replicate 9 0x07)).wf = false ∧
    (Instr.lit11 (List.replicate 10 0x07)).wf = false ∧
    (Instr.lit12 (List.replicate 11 0x07)).wf = false ∧
    (Instr.lit13 (List.replicate 12 0x07)).wf = false ∧
    (Instr.lit14 (List.replicate 13 0x07)).wf = false ∧
    (Instr.lit15 (List.replicate 14 0x07)).wf = false ∧
    (Instr.lit16 (List.replicate 15 0x07)).wf = false := by
  decide

/-- A literal with one payload byte too many is ill-formed. -/
theorem test_wf_literal_long :
    (Instr.lit1 (List.replicate 2 0x07)).wf = false ∧
    (Instr.lit2 (List.replicate 3 0x07)).wf = false ∧
    (Instr.lit3 (List.replicate 4 0x07)).wf = false ∧
    (Instr.lit4 (List.replicate 5 0x07)).wf = false ∧
    (Instr.lit5 (List.replicate 6 0x07)).wf = false ∧
    (Instr.lit6 (List.replicate 7 0x07)).wf = false ∧
    (Instr.lit7 (List.replicate 8 0x07)).wf = false ∧
    (Instr.lit8 (List.replicate 9 0x07)).wf = false ∧
    (Instr.lit9 (List.replicate 10 0x07)).wf = false ∧
    (Instr.lit10 (List.replicate 11 0x07)).wf = false ∧
    (Instr.lit11 (List.replicate 12 0x07)).wf = false ∧
    (Instr.lit12 (List.replicate 13 0x07)).wf = false ∧
    (Instr.lit13 (List.replicate 14 0x07)).wf = false ∧
    (Instr.lit14 (List.replicate 15 0x07)).wf = false ∧
    (Instr.lit15 (List.replicate 16 0x07)).wf = false ∧
    (Instr.lit16 (List.replicate 17 0x07)).wf = false := by
  decide

/-- A repeat whose count lies just outside its row is ill-formed (rules R62, R69). -/
theorem test_wf_repeat_range :
    (Instr.rep2To129 1 0x07).wf = false ∧
    (Instr.rep2To129 130 0x07).wf = false ∧
    (Instr.rep130To193 129 0x07).wf = false ∧
    (Instr.rep130To193 194 0x07).wf = false ∧
    (Instr.rep194To225 193 0x07).wf = false ∧
    (Instr.rep194To225 226 0x07).wf = false ∧
    (Instr.rep226To241 225 0x07).wf = false ∧
    (Instr.rep226To241 242 0x07).wf = false ∧
    (Instr.rep242To249 241 0x07).wf = false ∧
    (Instr.rep242To249 250 0x07).wf = false ∧
    (Instr.rep250To253 249 0x07).wf = false ∧
    (Instr.rep250To253 254 0x07).wf = false ∧
    (Instr.rep254To255 253 0x07).wf = false ∧
    (Instr.rep254To255 256 0x07).wf = false := by
  decide

/-- A reserved tag just outside its row is ill-formed (rule R69). -/
theorem test_wf_reserved_range :
    (Instr.reserved0 0x3FFF).wf = false ∧
    (Instr.reserved0 0x8000).wf = false ∧
    (Instr.reserved1 0x1FFF).wf = false ∧
    (Instr.reserved1 0x4000).wf = false ∧
    (Instr.reserved2 0x0FFF).wf = false ∧
    (Instr.reserved2 0x2000).wf = false ∧
    (Instr.reserved3 0x07FF).wf = false ∧
    (Instr.reserved3 0x1000).wf = false ∧
    (Instr.reserved4 0x03FF).wf = false ∧
    (Instr.reserved4 0x0800).wf = false ∧
    (Instr.reserved5 0x01FF).wf = false ∧
    (Instr.reserved5 0x0400).wf = false ∧
    (Instr.reserved6 0x00FF).wf = false ∧
    (Instr.reserved6 0x0200).wf = false ∧
    (Instr.reserved7 0x007F).wf = false ∧
    (Instr.reserved7 0x0100).wf = false ∧
    (Instr.reserved8 0x003F).wf = false ∧
    (Instr.reserved8 0x0080).wf = false ∧
    (Instr.reserved9 0x001F).wf = false ∧
    (Instr.reserved9 0x0040).wf = false ∧
    (Instr.reserved10 0x0017).wf = false ∧
    (Instr.reserved10 0x0020).wf = false ∧
    (Instr.reserved11 0x0013).wf = false ∧
    (Instr.reserved11 0x0018).wf = false ∧
    (Instr.reserved12 0x0011).wf = false ∧
    (Instr.reserved12 0x0014).wf = false ∧
    (Instr.reserved13 0x0010).wf = false ∧
    (Instr.reserved13 0x0012).wf = false ∧
    (Instr.reserved14 0x7FFF).wf = false ∧
    (Instr.reserved14 0xC000).wf = false ∧
    (Instr.reserved15 0xBFFF).wf = false ∧
    (Instr.reserved15 0xE000).wf = false ∧
    (Instr.reserved16 0xDFFF).wf = false ∧
    (Instr.reserved16 0xF000).wf = false ∧
    (Instr.reserved17 0xEFFF).wf = false ∧
    (Instr.reserved17 0xF800).wf = false ∧
    (Instr.reserved18 0xF7FF).wf = false ∧
    (Instr.reserved18 0xFC00).wf = false ∧
    (Instr.reserved19 0xFBFF).wf = false ∧
    (Instr.reserved19 0xFE00).wf = false ∧
    (Instr.reserved20 0xFDFF).wf = false ∧
    (Instr.reserved20 0xFF00).wf = false ∧
    (Instr.reserved21 0xFEFF).wf = false ∧
    (Instr.reserved21 0xFF02).wf = false := by
  decide

/-! ## Decoding: the first and the last tag of each row of spec/opcode_table.json, bits 7:0 first (rule R66) -/

theorem test_decode_end : decode [0x00, 0x00] = .instr .endFrame [] := by decide

theorem test_decode_lit1 :
    decode [0x01, 0x00, 0xA0] = .instr (.lit1 [0xA0]) [] := by
  decide

theorem test_decode_lit2 :
    decode [0x02, 0x00, 0xA0, 0xA1] = .instr (.lit2 [0xA0, 0xA1]) [] := by
  decide

theorem test_decode_lit3 :
    decode [0x03, 0x00, 0xA0, 0xA1, 0xA2] = .instr (.lit3 [0xA0, 0xA1, 0xA2]) [] := by
  decide

theorem test_decode_lit4 :
    decode [0x04, 0x00, 0xA0, 0xA1, 0xA2, 0xA3] = .instr (.lit4 [0xA0, 0xA1, 0xA2, 0xA3]) [] := by
  decide

theorem test_decode_lit5 :
    decode [0x05, 0x00, 0xA0, 0xA1, 0xA2, 0xA3, 0xA4] = .instr (.lit5 [0xA0, 0xA1, 0xA2, 0xA3, 0xA4]) [] := by
  decide

theorem test_decode_lit6 :
    decode [0x06, 0x00, 0xA0, 0xA1, 0xA2, 0xA3, 0xA4, 0xA5] = .instr (.lit6 [0xA0, 0xA1, 0xA2, 0xA3, 0xA4, 0xA5]) [] := by
  decide

theorem test_decode_lit7 :
    decode [0x07, 0x00, 0xA0, 0xA1, 0xA2, 0xA3, 0xA4, 0xA5, 0xA6] = .instr (.lit7 [0xA0, 0xA1, 0xA2, 0xA3, 0xA4, 0xA5, 0xA6]) [] := by
  decide

theorem test_decode_lit8 :
    decode [0x08, 0x00, 0xA0, 0xA1, 0xA2, 0xA3, 0xA4, 0xA5, 0xA6, 0xA7] = .instr (.lit8 [0xA0, 0xA1, 0xA2, 0xA3, 0xA4, 0xA5, 0xA6, 0xA7]) [] := by
  decide

theorem test_decode_lit9 :
    decode [0x09, 0x00, 0xA0, 0xA1, 0xA2, 0xA3, 0xA4, 0xA5, 0xA6, 0xA7, 0xA8] = .instr (.lit9 [0xA0, 0xA1, 0xA2, 0xA3, 0xA4, 0xA5, 0xA6, 0xA7, 0xA8]) [] := by
  decide

theorem test_decode_lit10 :
    decode [0x0A, 0x00, 0xA0, 0xA1, 0xA2, 0xA3, 0xA4, 0xA5, 0xA6, 0xA7, 0xA8, 0xA9] = .instr (.lit10 [0xA0, 0xA1, 0xA2, 0xA3, 0xA4, 0xA5, 0xA6, 0xA7, 0xA8, 0xA9]) [] := by
  decide

theorem test_decode_lit11 :
    decode [0x0B, 0x00, 0xA0, 0xA1, 0xA2, 0xA3, 0xA4, 0xA5, 0xA6, 0xA7, 0xA8, 0xA9, 0xAA] = .instr (.lit11 [0xA0, 0xA1, 0xA2, 0xA3, 0xA4, 0xA5, 0xA6, 0xA7, 0xA8, 0xA9, 0xAA]) [] := by
  decide

theorem test_decode_lit12 :
    decode [0x0C, 0x00, 0xA0, 0xA1, 0xA2, 0xA3, 0xA4, 0xA5, 0xA6, 0xA7, 0xA8, 0xA9, 0xAA, 0xAB] = .instr (.lit12 [0xA0, 0xA1, 0xA2, 0xA3, 0xA4, 0xA5, 0xA6, 0xA7, 0xA8, 0xA9, 0xAA, 0xAB]) [] := by
  decide

theorem test_decode_lit13 :
    decode [0x0D, 0x00, 0xA0, 0xA1, 0xA2, 0xA3, 0xA4, 0xA5, 0xA6, 0xA7, 0xA8, 0xA9, 0xAA, 0xAB, 0xAC] = .instr (.lit13 [0xA0, 0xA1, 0xA2, 0xA3, 0xA4, 0xA5, 0xA6, 0xA7, 0xA8, 0xA9, 0xAA, 0xAB, 0xAC]) [] := by
  decide

theorem test_decode_lit14 :
    decode [0x0E, 0x00, 0xA0, 0xA1, 0xA2, 0xA3, 0xA4, 0xA5, 0xA6, 0xA7, 0xA8, 0xA9, 0xAA, 0xAB, 0xAC, 0xAD] = .instr (.lit14 [0xA0, 0xA1, 0xA2, 0xA3, 0xA4, 0xA5, 0xA6, 0xA7, 0xA8, 0xA9, 0xAA, 0xAB, 0xAC, 0xAD]) [] := by
  decide

theorem test_decode_lit15 :
    decode [0x0F, 0x00, 0xA0, 0xA1, 0xA2, 0xA3, 0xA4, 0xA5, 0xA6, 0xA7, 0xA8, 0xA9, 0xAA, 0xAB, 0xAC, 0xAD, 0xAE] = .instr (.lit15 [0xA0, 0xA1, 0xA2, 0xA3, 0xA4, 0xA5, 0xA6, 0xA7, 0xA8, 0xA9, 0xAA, 0xAB, 0xAC, 0xAD, 0xAE]) [] := by
  decide

theorem test_decode_lit16 :
    decode [0x10, 0x00, 0xA0, 0xA1, 0xA2, 0xA3, 0xA4, 0xA5, 0xA6, 0xA7, 0xA8, 0xA9, 0xAA, 0xAB, 0xAC, 0xAD, 0xAE, 0xAF] = .instr (.lit16 [0xA0, 0xA1, 0xA2, 0xA3, 0xA4, 0xA5, 0xA6, 0xA7, 0xA8, 0xA9, 0xAA, 0xAB, 0xAC, 0xAD, 0xAE, 0xAF]) [] := by
  decide

theorem test_decode_rep2To129 :
    decode [0x80, 0xFF, 0xAB] = .instr (.rep2To129 129 0xAB) [] ∧
    decode [0xFF, 0xFF, 0xAB] = .instr (.rep2To129 2 0xAB) [] := by
  decide

theorem test_decode_rep130To193 :
    decode [0x40, 0xFF, 0xAB] = .instr (.rep130To193 193 0xAB) [] ∧
    decode [0x7F, 0xFF, 0xAB] = .instr (.rep130To193 130 0xAB) [] := by
  decide

theorem test_decode_rep194To225 :
    decode [0x20, 0xFF, 0xAB] = .instr (.rep194To225 225 0xAB) [] ∧
    decode [0x3F, 0xFF, 0xAB] = .instr (.rep194To225 194 0xAB) [] := by
  decide

theorem test_decode_rep226To241 :
    decode [0x10, 0xFF, 0xAB] = .instr (.rep226To241 241 0xAB) [] ∧
    decode [0x1F, 0xFF, 0xAB] = .instr (.rep226To241 226 0xAB) [] := by
  decide

theorem test_decode_rep242To249 :
    decode [0x08, 0xFF, 0xAB] = .instr (.rep242To249 249 0xAB) [] ∧
    decode [0x0F, 0xFF, 0xAB] = .instr (.rep242To249 242 0xAB) [] := by
  decide

theorem test_decode_rep250To253 :
    decode [0x04, 0xFF, 0xAB] = .instr (.rep250To253 253 0xAB) [] ∧
    decode [0x07, 0xFF, 0xAB] = .instr (.rep250To253 250 0xAB) [] := by
  decide

theorem test_decode_rep254To255 :
    decode [0x02, 0xFF, 0xAB] = .instr (.rep254To255 255 0xAB) [] ∧
    decode [0x03, 0xFF, 0xAB] = .instr (.rep254To255 254 0xAB) [] := by
  decide

theorem test_decode_reserved0 :
    decode [0x00, 0x40] = .instr (.reserved0 0x4000) [] ∧
    decode [0xFF, 0x7F] = .instr (.reserved0 0x7FFF) [] := by
  decide

theorem test_decode_reserved1 :
    decode [0x00, 0x20] = .instr (.reserved1 0x2000) [] ∧
    decode [0xFF, 0x3F] = .instr (.reserved1 0x3FFF) [] := by
  decide

theorem test_decode_reserved2 :
    decode [0x00, 0x10] = .instr (.reserved2 0x1000) [] ∧
    decode [0xFF, 0x1F] = .instr (.reserved2 0x1FFF) [] := by
  decide

theorem test_decode_reserved3 :
    decode [0x00, 0x08] = .instr (.reserved3 0x0800) [] ∧
    decode [0xFF, 0x0F] = .instr (.reserved3 0x0FFF) [] := by
  decide

theorem test_decode_reserved4 :
    decode [0x00, 0x04] = .instr (.reserved4 0x0400) [] ∧
    decode [0xFF, 0x07] = .instr (.reserved4 0x07FF) [] := by
  decide

theorem test_decode_reserved5 :
    decode [0x00, 0x02] = .instr (.reserved5 0x0200) [] ∧
    decode [0xFF, 0x03] = .instr (.reserved5 0x03FF) [] := by
  decide

theorem test_decode_reserved6 :
    decode [0x00, 0x01] = .instr (.reserved6 0x0100) [] ∧
    decode [0xFF, 0x01] = .instr (.reserved6 0x01FF) [] := by
  decide

theorem test_decode_reserved7 :
    decode [0x80, 0x00] = .instr (.reserved7 0x0080) [] ∧
    decode [0xFF, 0x00] = .instr (.reserved7 0x00FF) [] := by
  decide

theorem test_decode_reserved8 :
    decode [0x40, 0x00] = .instr (.reserved8 0x0040) [] ∧
    decode [0x7F, 0x00] = .instr (.reserved8 0x007F) [] := by
  decide

theorem test_decode_reserved9 :
    decode [0x20, 0x00] = .instr (.reserved9 0x0020) [] ∧
    decode [0x3F, 0x00] = .instr (.reserved9 0x003F) [] := by
  decide

theorem test_decode_reserved10 :
    decode [0x18, 0x00] = .instr (.reserved10 0x0018) [] ∧
    decode [0x1F, 0x00] = .instr (.reserved10 0x001F) [] := by
  decide

theorem test_decode_reserved11 :
    decode [0x14, 0x00] = .instr (.reserved11 0x0014) [] ∧
    decode [0x17, 0x00] = .instr (.reserved11 0x0017) [] := by
  decide

theorem test_decode_reserved12 :
    decode [0x12, 0x00] = .instr (.reserved12 0x0012) [] ∧
    decode [0x13, 0x00] = .instr (.reserved12 0x0013) [] := by
  decide

theorem test_decode_reserved13 : decode [0x11, 0x00] = .instr (.reserved13 0x0011) [] := by decide

theorem test_decode_reserved14 :
    decode [0x00, 0x80] = .instr (.reserved14 0x8000) [] ∧
    decode [0xFF, 0xBF] = .instr (.reserved14 0xBFFF) [] := by
  decide

theorem test_decode_reserved15 :
    decode [0x00, 0xC0] = .instr (.reserved15 0xC000) [] ∧
    decode [0xFF, 0xDF] = .instr (.reserved15 0xDFFF) [] := by
  decide

theorem test_decode_reserved16 :
    decode [0x00, 0xE0] = .instr (.reserved16 0xE000) [] ∧
    decode [0xFF, 0xEF] = .instr (.reserved16 0xEFFF) [] := by
  decide

theorem test_decode_reserved17 :
    decode [0x00, 0xF0] = .instr (.reserved17 0xF000) [] ∧
    decode [0xFF, 0xF7] = .instr (.reserved17 0xF7FF) [] := by
  decide

theorem test_decode_reserved18 :
    decode [0x00, 0xF8] = .instr (.reserved18 0xF800) [] ∧
    decode [0xFF, 0xFB] = .instr (.reserved18 0xFBFF) [] := by
  decide

theorem test_decode_reserved19 :
    decode [0x00, 0xFC] = .instr (.reserved19 0xFC00) [] ∧
    decode [0xFF, 0xFD] = .instr (.reserved19 0xFDFF) [] := by
  decide

theorem test_decode_reserved20 :
    decode [0x00, 0xFE] = .instr (.reserved20 0xFE00) [] ∧
    decode [0xFF, 0xFE] = .instr (.reserved20 0xFEFF) [] := by
  decide

theorem test_decode_reserved21 :
    decode [0x00, 0xFF] = .instr (.reserved21 0xFF00) [] ∧
    decode [0x01, 0xFF] = .instr (.reserved21 0xFF01) [] := by
  decide

/-- Too few bytes: the decoder says which part is missing (rule R143). -/
theorem test_decode_incomplete :
    decode [0x03] = .rejected .tagIncomplete ∧ decode [0x03, 0x00, 0x01, 0x02] = .rejected .payloadIncomplete ∧
    decode [0xFF, 0xFF] = .rejected .payloadIncomplete := by
  decide

/-- The vectors V-SER-1, V-SER-3, V-SER-8, V-SER-11, V-SER-12. -/
theorem test_ser_vectors :
    ser .endMark = [0x00, 0x00] ∧ ser (.literal [0x00]) = [0x01, 0x00, 0x00] ∧ ser (.rep 0x00 128) = [0x81, 0xFF, 0x00] ∧
    ser (.rep 0x00 255) = [0x02, 0xFF, 0x00] ∧ ser (.rep 0x07 1) = [0x01, 0x00, 0x07] := by
  decide

/-! ## Small states: `L = 4` on both sides, XOR on -/

/-- Right after reset. -/
def small : State := State.resetWith ⟨4, 4, true, true⟩

/-- The frame `[5, 5, 9, 8]` written to `DST` by chunks, `End` not seen yet (vector V-RLD-3). -/
def fullDst : State :=
  { small with dec := { small.dec with cursor := 4, dst := [(0, 0x05), (1, 0x05), (2, 0x09), (3, 0x08)] } }

/-- The frame `[5, 5, 9, 8]` committed, XOR active, the cursor at `c` (vectors V-RLD-4 to V-RLD-7). -/
def committed (c : Nat) : State :=
  { small with dec := { small.dec with
      cursor := c, first := false, dst := [(0, 0x05), (1, 0x05), (2, 0x09), (3, 0x08)],
      rxb := [(0, 0x05), (1, 0x05), (2, 0x09), (3, 0x08)] } }

/-- `FRAME = [5, 5, 9, 9]`, nothing encoded yet (program P1). -/
def framed : State := { small with frame := [(0, 0x05), (1, 0x05), (2, 0x09), (3, 0x09)] }

/-- Encoding `[5, 5, 9, 9]`: two bytes pushed, a run of two pending (scenario of section 1.1, after step 2). -/
def midScan : State :=
  { framed with starts := 1, enc := { framed.enc with
      txb := [(0, 0x05), (1, 0x05)], mode := .rep, prev := 0x05, cnt := 2,
      lbuf := zeroEntries.setIfInBounds 0 0x05, idx := 2, busy := true } }

/-- The same encode with the scan over (after step 4). -/
def scanOver : State :=
  { framed with starts := 1, enc := { framed.enc with
      txb := [(0, 0x05), (1, 0x05), (2, 0x09), (3, 0x09)], mode := .rep, prev := 0x09, cnt := 2,
      lbuf := zeroEntries.setIfInBounds 0 0x09, idx := 4, busy := true } }

/-- The literal `[1, 2, 3, 4]` pending at the end of its scan. -/
def literalPending : State :=
  { small with
    starts := 1
    frame := [(0, 0x01), (1, 0x02), (2, 0x03), (3, 0x04)]
    enc := { small.enc with
      txb := [(0, 0x01), (1, 0x02), (2, 0x03), (3, 0x04)], mode := .acc, prev := 0x04, llen := 4, idx := 4, busy := true,
      lbuf := (((zeroEntries.setIfInBounds 0 0x01).setIfInBounds 1 0x02).setIfInBounds 2 0x03).setIfInBounds 3 0x04 } }

/-- Its flush under way: the run has been sent, `End` has not. -/
def endToSend : State := { scanOver with enc := { scanOver.enc with ending := true } }

/-- The deserializer in a phase, the channel offering some bytes. -/
def offering (phase : DesPhase) (tag : TagWord) (cnt : Nat) (bytes : List Byte) : State :=
  { small with
    chan := { small.chan with bytes := bytes }
    dec := { small.dec with des := { small.dec.des with phase := phase, tag := tag, cnt := cnt } } }

/-- A fault held. -/
def faulted : State := { small with dec := { small.dec with fault := .overrun } }

/-- `s` with moves scheduled. -/
def scheduled (s : State) (ms : List Move) : State := { s with schedule := ms }

/-- The next state, if there is one. -/
def nextOf (o : Host.Outcome State Fault Refusal) : Option State :=
  match o with
  | .next t => some t
  | .fault _ => none
  | .refused _ => none

/-- The four bytes `DST` holds. -/
def dstOf (t : State) : List (Option Byte) := (List.range 4).map (memValue t .dst)

/-! ## Instructions (section 2.5) -/

/-- V-RLD-3. -/
theorem test_end_commits :
    (nextOf (exec .endFrame fullDst)).map (fun t => (t.dec.rxb, t.dec.cursor, t.dec.first, t.events)) =
      some ([(0, 0x05), (1, 0x05), (2, 0x09), (3, 0x08)], 0, false, [.frameDone]) := by
  decide

/-- V-RLD-8, with code 1. -/
theorem test_end_short_faults :
    (nextOf (exec .endFrame (committed 2))).map (fun t => (decFaultLevel t, t.dec.cursor, t.dec.rxb.length, t.events)) =
      some (1, 2, 4, []) := by
  decide

/-- V-RLD-2. -/
theorem test_lit2_lands_on_length :
    (nextOf (exec (.lit2 [0x09, 0x08]) { small with dec := { small.dec with cursor := 2, dst := [(0, 0x05), (1, 0x05)] } })).map
      (fun t => (dstOf t, t.dec.cursor)) = some ([some 0x05, some 0x05, some 0x09, some 0x08], 4) := by
  decide

/-- V-RLD-5: XOR against the baseline. -/
theorem test_lit2_xors :
    (nextOf (exec (.lit2 [0x00, 0x03]) (committed 0))).map (fun t => (dstOf t, t.dec.cursor)) =
      some ([some 0x05, some 0x06, some 0x09, some 0x08], 2) := by
  decide

/-- V-RLD-11. -/
theorem test_lit1_overrun :
    (nextOf (exec (.lit1 [0x01]) (committed 4))).map (fun t => (decFaultLevel t, dstOf t)) =
      some (2, [some 0x05, some 0x05, some 0x09, some 0x08]) := by
  decide

/-- V-RLD-7. -/
theorem test_rep_xors_each_position :
    (nextOf (exec (.rep2To129 3 0xFF) (committed 1))).map (fun t => (dstOf t, t.dec.cursor)) =
      some ([some 0x05, some 0xFA, some 0xF6, some 0xF7], 4) := by
  decide

/-- V-RLD-10: nothing of a chunk that does not fit is written. -/
theorem test_rep_overrun :
    (nextOf (exec (.rep2To129 3 0x09) (committed 2))).map (fun t => (decFaultLevel t, dstOf t, t.dec.cursor)) =
      some (2, [some 0x05, some 0x05, some 0x09, some 0x08], 2) := by
  decide

/-- V-RLD-13, on the row that holds a count of 255. -/
theorem test_rep255_overrun :
    (nextOf (exec (.rep254To255 255 0x09) small)).map decFaultLevel = some 2 := by
  decide +kernel

/-- Operands that are no chunk's are refused by name: no payload byte, seventeen, a repeat of none, one of 256 (rule R60). -/
theorem test_no_such_chunk :
    exec (.lit1 []) small = .refused .noSuchChunk ∧ exec (.lit16 (List.replicate 17 0x00)) small = .refused .noSuchChunk ∧
    exec (.rep2To129 0 0x07) small = .refused .noSuchChunk ∧ exec (.rep254To255 256 0x07) small = .refused .noSuchChunk :=
  ⟨rfl, rfl, rfl, rfl⟩

/-- V-DES-10: the tag `0xFF01`. -/
theorem test_reserved21_faults :
    (nextOf (exec (.reserved21 0xFF01) small)).map (fun t => (decFaultLevel t, t.dec.cursor, t.dec.dst)) = some (3, 0, []) := by
  decide

/-! ## The deserializer (section 2.4) and the step -/

/-- V-DES-5, the last byte: `FF FF`, then `05`. -/
theorem test_des_repeat_byte : (desAccept ⟨.rep, 0xFFFF, zeroEntries, 0⟩ 0x05).2 = some (.rep2To129 2 0x05) := by decide

/-- V-DES-2, the last byte: `01 00`, then `09`. -/
theorem test_des_literal_byte : (desAccept ⟨.lit, 0x0001, zeroEntries, 0⟩ 0x09).2 = some (.lit1 [0x09]) := by decide

/-- Where the spec says nothing: phase `LIT` with a tag that is no literal's (log entry 21). -/
theorem test_des_literal_of_other_tag :
    (desAccept ⟨.lit, 0x0021, zeroEntries, 0⟩ 0x09).2 = some (.lit1 [0x09]) ∧
    (desAccept ⟨.lit, 0xFFFF, zeroEntries, 30⟩ 0x09).2 = some (.lit16 (List.replicate 16 0x00)) ∧
    (desAccept ⟨.lit, 0x0020, zeroEntries, 0⟩ 0x09).2 = none := by
  decide

/-- V-DES-9, the byte that completes the tag `0x0011`: what program P4d leaves, `01 02` still in the channel. -/
theorem test_step_reserved_tag :
    (nextOf (step (offering .tag1 0x0011 0 [0x00, 0x01, 0x02]))).map
      (fun t => (decFaultLevel t, t.dec.des.phase, t.dec.des.tag, t.chan.bytes)) = some (3, .tag1, 0x0011, [0x01, 0x02]) := by
  decide

/-- V-CTL-5: no byte is taken while a fault is held. -/
theorem test_step_faulted_takes_nothing :
    (nextOf (step { faulted with chan := { faulted.chan with bytes := [0x00] } })).map (fun t => t.chan.bytes) = some [0x00] := by
  decide

/-- A placed `LIT1` with a zero payload byte writes that byte at the cursor (V-SER-3, rule R111). -/
theorem test_withFetchWord_lit1 :
    (nextOf (step (State.reset.withFetchWord 16 0x0001))).map (fun t => (memValue t .dst 0, t.dec.cursor)) =
      some (some 0x00, 1) := by
  decide

/-- A placed reserved tag faults (V-DES-12). -/
theorem test_withFetchWord_reserved :
    (nextOf (step (State.reset.withFetchWord 16 0x8000))).map decFaultLevel = some 3 := by
  decide

/-! ## The sending half (sections 2.1, 2.2, 2.7) -/

/-- V-XDE-3: `0x06` against `0x05` is `0x03`, and the baseline gets the raw byte. -/
theorem test_xde_active :
    (let r := xdeByte { small with frame := [(0, 0x06)], enc := { small.enc with txb := [(0, 0x05)], first := false } }
     (r.2, r.1.enc.txb, r.1.enc.idx)) = (0x03, [(0, 0x06)], 1) := by
  decide

/-- V-XDE-7: the first-frame flag turns XOR off, whatever the baseline holds. A byte of zero is listed in no baseline. -/
theorem test_xde_first_frame :
    (let r := xdeByte { small with frame := [(0, 0x00)], enc := { small.enc with txb := [(0, 0xAA)] } }
     (r.2, r.1.enc.txb)) = (0x00, []) := by
  decide

/-- Step 3 of the scenario of section 1.1: the run of two fives is sent, a literal opens. -/
theorem test_enc_step_sends_run :
    (nextOf (encTurn midScan)).map (fun t => (t.chan.bytes, t.enc.mode, t.enc.pending, t.enc.prev, t.enc.cnt)) =
      some ([0xFF, 0xFF, 0x05], .acc, [0x09], 0x09, 0) := by
  decide

/-- Step 5, the flush: the run of two nines first. -/
theorem test_enc_flush_pending :
    (nextOf (encTurn scanOver)).map (fun t => (t.chan.bytes, t.enc.ending, t.enc.busy, t.enc.cnt, t.events)) =
      some ([0xFF, 0xFF, 0x09], true, true, 2, []) := by
  decide

/-- Then `End`; with the channel not ready it waits, `enc_done` not raised (rules R99, R105, R131). -/
theorem test_enc_flush_end :
    (nextOf (encTurn endToSend)).map (fun t => (t.chan.bytes, t.enc.first, t.enc.busy, t.enc.ending, t.events)) =
      some ([0x00, 0x00], false, false, false, [.encDone]) ∧
    nextOf (encTurn (endToSend.setTxReady false)) = some (endToSend.setTxReady false) := by
  decide

/-- V-RLE-4. -/
theorem test_rle_mixed :
    rleEncode [0x01, 0x02, 0x02, 0x03] = [.literal [0x01], .rep 0x02 2, .literal [0x03], .endMark] := by
  decide

/-- V-RLE-11: the literal cap, then an equal byte. -/
theorem test_rle_equal_after_cap :
    rleEncode ((List.range 16).map (BitVec.ofNat 8) ++ [0x0F]) =
      [.literal ((List.range 16).map (BitVec.ofNat 8)), .rep 0x0F 1, .endMark] := by
  decide

/-- V-CTL-2; the start was issued (log entry 22). -/
theorem test_start_while_busy : nextOf (makeMove .encStart midScan) = some { midScan with starts := 2 } := by decide

/-- V-CTL-4: reset is the way out of a fault. -/
theorem test_dec_reset :
    (nextOf (makeMove .decReset { committed 2 with dec := { (committed 2).dec with fault := .lengthMismatch } })).map
      (fun t => (t.dec.fault, t.dec.cursor, t.dec.rxb, t.dec.first, t.dec.des.phase)) = some (.none, 0, [], true, .tag0) := by
  decide

/-! ## The compositions (rule R195) -/

/-- The next state of the chunk-level composition, if there is one. -/
def nextChunksOf (o : Host.Outcome ChunkSystem Fault Refusal) : Option ChunkSystem :=
  match o with
  | .next c => some c
  | .fault _ => none
  | .refused _ => none

/-- The chunk-level composition: ENC's chunk waits whole in the channel of chunks. -/
theorem test_chunk_composition :
    (nextChunksOf (chunkStep ⟨midScan, []⟩)).map (fun c => (c.chunks, c.sys.chan.bytes)) = some ([.rep 0x05 2], []) := by
  decide

/-- The direct composition: the decoder's operation has run when ENC's step is over. -/
theorem test_direct_composition :
    (nextOf (directStep midScan)).map (fun t => (t.dec.cursor, dstOf t, t.enc.idx, t.chan.bytes)) =
      some (2, [some 0x05, some 0x05, none, none], 3, []) := by
  decide

/-- With a fault held it waits (log entry 23). -/
theorem test_direct_waits_on_fault :
    nextOf (directStep { midScan with dec := faulted.dec }) = some { midScan with dec := faulted.dec } := by
  decide

/-! ## Witnesses: for each statement with hypotheses, states and operands that meet them -/

theorem witness_DecodeGivesBackEncoded :
    Instr.endFrame.wf = true ∧ (Instr.lit1 [0xFF]).wf = true ∧ (Instr.lit16 (List.replicate 16 0x00)).wf = true ∧
    (Instr.rep2To129 2 0x00).wf = true ∧ (Instr.rep254To255 255 0xFF).wf = true ∧ (Instr.reserved13 0x0011).wf = true ∧
    (Instr.reserved21 0xFF01).wf = true := by
  decide

theorem witness_DecodedIsWellFormedAndReencodes : decode [0x02, 0xFF, 0x00, 0x11] = .instr (.rep254To255 255 0x00) [0x11] := by
  decide

theorem witness_TagDecidesChunk :
    runOfTag (tagOfBytes 0x00 0x00) = 0 ∧ runOfTag (tagOfBytes 0x01 0x00) = 1 ∧ runOfTag (tagOfBytes 0x10 0x00) = 16 ∧
    runOfTag (tagOfBytes 0x02 0xFF) = -254 ∧ runOfTag (tagOfBytes 0xFF 0xFF) = -1 := by
  decide

theorem witness_SerializedFormsLengthAndInjectivity : ser (.rep 0x07 1) = ser (.literal [0x07]) := by
  decide

theorem witness_SerializedFrameSize : ∀ c ∈ [Chunk.literal [0x09], .rep 0x00 255], c ≠ .endMark := by decide

theorem witness_EndCommitsFullFrame : fullDst.dec.fault = .none ∧ fullDst.dec.cursor = fullDst.params.decL := by decide

theorem witness_EndShortOfFrameFaults :
    (small.dec.fault = .none ∧ small.dec.cursor ≠ small.params.decL) ∧
    ((committed 3).dec.fault = .none ∧ (committed 3).dec.cursor ≠ (committed 3).params.decL) := by
  decide

theorem witness_LiteralWritesAtCursor :
    chunkOf (.lit2 [0x09, 0x08]) = some (.literal [0x09, 0x08]) ∧ (committed 2).dec.fault = .none ∧
    (committed 2).dec.cursor + [0x09, 0x08].length ≤ (committed 2).params.decL ∧
    (committed 3).params.decL < (committed 3).dec.cursor + [0x09, 0x08].length := by
  decide

theorem witness_RepeatWritesAtCursor :
    chunkOf (.rep2To129 2 0x09) = some (.rep 0x09 2) ∧ (committed 2).dec.fault = .none ∧
    (committed 2).dec.cursor + 2 ≤ (committed 2).params.decL ∧ (committed 3).params.decL < (committed 3).dec.cursor + 2 := by
  decide

theorem witness_OverrunWritesNothing :
    Chunk.rep 0x09 3 ≠ .endMark ∧ chunkOf (.rep2To129 3 0x09) = some (.rep 0x09 3) ∧ (committed 2).dec.fault = .none ∧
    (committed 2).params.decL < (committed 2).dec.cursor + (Chunk.rep 0x09 3).size ∧
    (committed 1).dec.cursor + (Chunk.rep 0x09 3).size ≤ (committed 1).params.decL := by
  decide

theorem witness_ReservedTagTakesFault :
    ((Instr.reserved0 0x4000).wf = true ∧ chunkOf (.reserved0 0x4000) = none) ∧
    ((Instr.reserved21 0xFF01).wf = true ∧ chunkOf (.reserved21 0xFF01) = none) ∧ small.dec.fault = .none := by
  decide

theorem witness_FaultedReceiverAcceptsNothing : faulted.dec.fault ≠ .none ∧ Instr.endFrame.wf = true := by decide

theorem witness_LowTagByteAccepted :
    (offering .tag0 0x0000 0 [0xFF, 0xFF]).Offers 0xFF [0xFF] ∧ (offering .tag0 0x0000 0 [0xFF, 0xFF]).dec.des.phase = .tag0 :=
  ⟨⟨rfl, rfl, rfl⟩, rfl⟩

/-- The four branches: `End`, the longest literal, the longest repeat, a reserved tag. -/
theorem witness_HighTagByteDecides :
    (∀ low : TagWord, ∀ x : Byte, (offering .tag1 low 0 [x]).Offers x [] ∧ (offering .tag1 low 0 [x]).dec.des.phase = .tag1) ∧
    runOfTag (tagOfBytes (tagLow 0x0000) 0x00) = 0 ∧ runOfTag (tagOfBytes (tagLow 0x0010) 0x00) = 16 ∧
    runOfTag (tagOfBytes (tagLow 0x0002) 0xFF) = -254 ∧ runOfTag (tagOfBytes (tagLow 0x0011) 0x00) = 17 :=
  ⟨fun _ _ => ⟨⟨rfl, rfl, rfl⟩, rfl⟩, by decide⟩

/-- A payload byte with more to come, and the last of one and of sixteen. -/
theorem witness_LiteralPayloadByteAccepted :
    (∀ tag cnt, (offering .lit tag cnt [0x09]).Offers 0x09 [] ∧ (offering .lit tag cnt [0x09]).dec.des.phase = .lit) ∧
    ((0x0010 : TagWord).extractLsb' 0 5).toNat = 16 ∧ ((0x0001 : TagWord).extractLsb' 0 5).toNat = 1 ∧
    0 + 1 < 16 ∧ 15 + 1 = 16 ∧ 0 + 1 = 1 :=
  ⟨fun _ _ => ⟨⟨rfl, rfl, rfl⟩, rfl⟩, by decide⟩

theorem witness_RepeatByteAccepted :
    (∀ tag, (offering .rep tag 0 [0x05]).Offers 0x05 [] ∧ (offering .rep tag 0 [0x05]).dec.des.phase = .rep) ∧
    runOfTag 0xFF02 = -254 ∧ runOfTag 0xFFFF = -1 :=
  ⟨fun _ => ⟨⟨rfl, rfl, rfl⟩, rfl⟩, by decide⟩

theorem witness_ReservedTagOnTheWireFaults :
    (offering .tag1 0x0011 0 [0x00]).Offers 0x00 [] ∧ (offering .tag1 0x0011 0 [0x00]).dec.des.phase = .tag1 ∧
    (tagOfBytes (tagLow 0x0011) 0x00).toNat = 17 ∧ (tagOfBytes (tagLow 0x0001) 0xFF).toNat = 0xFF01 :=
  ⟨⟨rfl, rfl, rfl⟩, rfl, by decide⟩

theorem witness_StepRunsCompletedInstr :
    ∀ ms, (scheduled (offering .rep 0xFFFF 0 [0x05]) ms).Offers 0x05 [] ∧
      (scheduled (offering .rep 0xFFFF 0 [0x05]) ms).schedule = ms ∧
      desAccept (offering .rep 0xFFFF 0 [0x05]).dec.des 0x05 = (⟨.tag0, 0xFFFF, zeroEntries, 0⟩, some (.rep2To129 2 0x05)) :=
  fun _ => ⟨⟨rfl, rfl, rfl⟩, rfl, by decide⟩

theorem witness_BytesOfInstrRunIt :
    let s := scheduled (offering .tag0 0x0000 0 [0xFF, 0xFF, 0x05, 0x00]) [.decTurn, .decTurn, .decTurn, .encTurn]
    (Instr.rep2To129 2 0x05).wf = true ∧ s.dec.des.phase = .tag0 ∧ s.dec.des.cnt = 0 ∧ s.dec.fault = .none ∧
    s.chan.rxValid = true ∧ s.chan.bytes = encode (.rep2To129 2 0x05) ++ [0x00] ∧
    s.schedule = List.replicate (encode (.rep2To129 2 0x05)).length .decTurn ++ [.encTurn] := by
  decide

theorem witness_PlacedWordRunsNext :
    decodeTableWord 16 0x0000 = some .endFrame ∧ decodeTableWord 16 0x0001 = some (.lit1 [0x00]) ∧
    decodeTableWord 16 0xFF02 = some (.rep254To255 255 0x00) ∧ decodeTableWord 16 0xFF01 = some (.reserved21 0xFF01) := by
  decide

theorem witness_StartBeginsEncode : small.enc.busy = false ∧ midScan.enc.busy = true := by decide

/-- `Idle`. -/
theorem witness_FirstByteIsBuffered : Enc.reset.mode = .idle := rfl

theorem witness_DifferingByteExtendsLiteral :
    literalPending.enc.mode = .acc ∧ (0x09 : Byte) ≠ literalPending.enc.prev ∧ literalPending.enc.llen ≤ 14 := by
  decide

/-- Fifteen bytes pending. -/
def fifteenPending : Enc := { literalPending.enc with llen := 15 }

theorem witness_LiteralCapEmits :
    fifteenPending.mode = .acc ∧ (0x09 : Byte) ≠ fifteenPending.prev ∧ fifteenPending.llen = 15 := by
  decide

theorem witness_EqualByteOpensRunOfTwo :
    (literalPending.enc.mode = .acc ∧ (0x04 : Byte) = literalPending.enc.prev ∧ 1 ≤ literalPending.enc.llen ∧
      literalPending.enc.llen ≤ 15) ∧
    (fifteenPending.mode = .acc ∧ (0x04 : Byte) = fifteenPending.prev ∧ 1 ≤ fifteenPending.llen ∧ fifteenPending.llen ≤ 15) := by
  decide

theorem witness_EqualByteAfterCapOpensRunOfOne :
    (let e : Enc := { literalPending.enc with llen := 0 }
     e.mode = .acc ∧ (0x04 : Byte) = e.prev ∧ e.llen = 0) := by
  decide

theorem witness_EqualByteExtendsRun :
    (midScan.enc.mode = .rep ∧ (0x05 : Byte) = midScan.enc.prev ∧ midScan.enc.cnt < 254) ∧
    (let e : Enc := { midScan.enc with cnt := 254 }
     e.mode = .rep ∧ (0x05 : Byte) = e.prev ∧ e.cnt = 254) := by
  decide

theorem witness_DifferingByteClosesRun :
    (midScan.enc.mode = .rep ∧ (0x09 : Byte) ≠ midScan.enc.prev ∧ midScan.enc.cnt ≤ 254) ∧
    (let e : Enc := { midScan.enc with cnt := 0 }
     e.mode = .rep ∧ (0x09 : Byte) ≠ e.prev ∧ e.cnt ≤ 254) := by
  decide

theorem small_encOk : EncOk 4 small.enc := by
  constructor <;> decide

theorem midScan_encOk : EncOk 4 midScan.enc := by
  constructor <;> decide

theorem scanOver_encOk : EncOk 4 scanOver.enc := by
  constructor <;> decide

theorem literalPending_encOk : EncOk 4 literalPending.enc := by
  constructor <;> decide

theorem endToSend_encOk : EncOk 4 endToSend.enc := by
  constructor <;> decide

theorem witness_ScanStepSendsWhatPushEmits :
    midScan.enc.busy = true ∧ EncOk midScan.params.encL midScan.enc ∧ midScan.enc.idx < midScan.params.encL ∧
    midScan.chan.txReady = true :=
  ⟨rfl, midScan_encOk, by decide, rfl⟩

/-- A run pending, a literal pending, nothing pending. -/
theorem witness_FlushEndsFrame :
    (scanOver.enc.busy = true ∧ EncOk scanOver.params.encL scanOver.enc ∧ scanOver.enc.idx = scanOver.params.encL ∧
      scanOver.chan.txReady = true ∧ scanOver.enc.ending = false ∧ scanOver.enc.mode = .rep ∧ 1 ≤ scanOver.enc.cnt) ∧
    (literalPending.enc.busy = true ∧ EncOk literalPending.params.encL literalPending.enc ∧
      literalPending.enc.idx = literalPending.params.encL ∧ literalPending.chan.txReady = true ∧
      literalPending.enc.ending = false ∧ literalPending.enc.mode = .acc ∧ 1 ≤ literalPending.enc.llen) ∧
    (let s : State := { scanOver with enc := { scanOver.enc with cnt := 0 } }
     s.enc.busy = true ∧ EncOk s.params.encL s.enc ∧ s.enc.idx = s.params.encL ∧ s.chan.txReady = true ∧
       s.enc.ending = false ∧ ¬(s.enc.mode = .acc ∧ 1 ≤ s.enc.llen) ∧ ¬(s.enc.mode = .rep ∧ 1 ≤ s.enc.cnt)) :=
  ⟨⟨rfl, scanOver_encOk, rfl, rfl, rfl, rfl, by decide⟩, ⟨rfl, literalPending_encOk, rfl, rfl, rfl, rfl, by decide⟩,
    rfl, by constructor <;> decide, rfl, rfl, rfl, by decide, by decide⟩

/-- A wait at a push, at the flush's pending chunk, at `End`; a channel ready for the pending chunk. -/
theorem witness_NotReadyChannelHoldsSender :
    (let s := midScan.setTxReady false
     s.enc.busy = true ∧ EncOk s.params.encL s.enc ∧ s.chan.txReady = false ∧ s.enc.idx < s.params.encL ∧
       (rlePush (xdeByte s).2 (xdeByte s).1.enc).2 ≠ none) ∧
    (let s := scanOver.setTxReady false
     s.enc.busy = true ∧ EncOk s.params.encL s.enc ∧ s.chan.txReady = false ∧ s.enc.idx = s.params.encL) ∧
    (let s := endToSend.setTxReady false
     s.enc.busy = true ∧ EncOk s.params.encL s.enc ∧ s.chan.txReady = false ∧ s.enc.idx = s.params.encL) ∧
    (scanOver.chan.txReady = true ∧ scanOver.enc.idx = scanOver.params.encL ∧ scanOver.enc.ending = false ∧
      flushPending scanOver.enc = some (.rep 0x09 2)) :=
  ⟨⟨rfl, midScan_encOk, rfl, by decide, by decide⟩, ⟨rfl, scanOver_encOk, rfl, rfl⟩, ⟨rfl, endToSend_encOk, rfl, rfl⟩,
    by decide⟩

/-- The invariant says nothing about the schedule. -/
theorem inv_scheduled {s : State} (h : s.Inv) (ms : List Move) : (scheduled s ms).Inv :=
  ⟨h.frame_ok, h.txb_ok, h.dst_ok, h.rxb_ok, h.enc_ok, h.des_ok, h.dst_state, h.starts_cover⟩

theorem small_desOk : DesOk small.dec.fault small.dec.des :=
  ⟨by decide, fun h => absurd h (by decide), fun h => absurd h (by decide), by decide, by decide⟩

/-- The invariant in the middle of an encode. -/
theorem midScan_inv : midScan.Inv where
  frame_ok := ⟨by decide, by decide⟩
  txb_ok := ⟨by decide, by decide⟩
  dst_ok := ⟨by decide, by decide⟩
  rxb_ok := ⟨by decide, by decide⟩
  enc_ok := midScan_encOk
  des_ok := small_desOk
  dst_state := ⟨by decide, fun _ h => absurd h (Nat.not_lt_zero _), fun h => absurd h (by decide)⟩
  starts_cover := by decide

/-- The invariant with the cursor at `L`, at the end of a first frame. -/
theorem fullDst_inv : fullDst.Inv where
  frame_ok := ⟨by decide, by decide⟩
  txb_ok := ⟨by decide, by decide⟩
  dst_ok := ⟨by decide, by decide⟩
  rxb_ok := ⟨by decide, by decide⟩
  enc_ok := small_encOk
  des_ok := small_desOk
  dst_state := ⟨by decide, by decide, fun h => absurd h (by decide)⟩
  starts_cover := by decide

/-- A fault and a refusal, each from the host's write; a push that emits. -/
theorem witness_CapOverflowUnreachable :
    (scheduled fullDst [.writeFrame 4 0x00]).Inv ∧
    step (scheduled fullDst [.writeFrame 4 0x00]) = .fault (.noSuchFrameIndex 4) ∧
    (scheduled midScan [.writeFrame 0 0x00]).Inv ∧
    step (scheduled midScan [.writeFrame 0 0x00]) = .refused .frameWriteWhileBusy ∧
    midScan.enc.idx < midScan.params.encL ∧ (rlePush 0x09 midScan.enc).2 = some (.rep 0x05 2) :=
  ⟨inv_scheduled fullDst_inv _, rfl, inv_scheduled midScan_inv _, rfl, by decide, by decide⟩

theorem witness_UniformFrameIsFullRepeats : 2 ≤ 2 ∧ 2 ≤ 256 := by decide

theorem witness_AlternatingFrameIsFullLiterals :
    ∀ i (h : i + 1 < [(0x00 : Byte), 0x01, 0x00].length), [(0x00 : Byte), 0x01, 0x00][i + 1] ≠ [(0x00 : Byte), 0x01, 0x00][i] := by
  intro i h
  have : i = 0 ∨ i = 1 := by
    simp at h
    omega
  rcases this with rfl | rfl <;> simp

/-- `FRAME` equal to `TXB`, the first frame over. -/
def unchangedFrame : State := { framed with enc := { framed.enc with txb := framed.frame, first := false } }

theorem witness_UnchangedFrameIsZeroRepeats :
    encXorActive unchangedFrame = true ∧ 2 ≤ unchangedFrame.params.encL ∧
    ∀ i, i < unchangedFrame.params.encL → memRead unchangedFrame .frame i = memRead unchangedFrame .txb i := by
  decide

theorem witness_FirstFrameIsSentRaw : small.enc.first = true := rfl

/-- The schedule of one encode. -/
def encodeMoves : List Move := .encStart :: List.replicate 6 .encTurn

theorem witness_EncodeStepsSendEncodedFrame :
    let s := scheduled framed encodeMoves
    s.enc.busy = false ∧ EncOk s.params.encL s.enc ∧ s.chan.txReady = true ∧
    s.schedule = .encStart :: List.replicate (s.params.encL + 2) .encTurn ++ [] :=
  ⟨rfl, small_encOk, rfl, rfl⟩

theorem witness_WellFormedFrameDecodes :
    small.dec.fault = .none ∧ small.dec.cursor = 0 ∧
    (∀ c ∈ [Chunk.rep 0x05 2, .literal [0x09, 0x08]], c ≠ .endMark) ∧
    (expandAll [Chunk.rep 0x05 2, .literal [0x09, 0x08]]).length = small.params.decL := by
  decide

/-- A frame that ends well, and one whose second chunk passes `L`. -/
theorem witness_WireDeliversLikeChunks :
    (let cs := [Chunk.rep 0x05 3, .rep 0x09 1, .endMark]
     let s := scheduled (offering .tag0 0x0000 0 (serAll cs)) (List.replicate 8 .decTurn)
     s.dec.des.phase = .tag0 ∧ s.dec.des.cnt = 0 ∧ s.dec.fault = .none ∧ s.chan.rxValid = true ∧
       s.chan.bytes = serAll cs ++ [] ∧ s.schedule = List.replicate (serAll cs).length .decTurn ++ [] ∧
       (deliverAll cs s).dec.fault = .none) ∧
    (let cs := [Chunk.rep 0x05 3, .rep 0x09 2, .endMark]
     let s := scheduled (offering .tag0 0x0000 0 (serAll cs)) (List.replicate 8 .decTurn)
     s.dec.des.phase = .tag0 ∧ s.dec.des.cnt = 0 ∧ s.dec.fault = .none ∧ s.chan.rxValid = true ∧
       s.chan.bytes = serAll cs ++ [] ∧ s.schedule = List.replicate (serAll cs).length .decTurn ++ [] ∧
       (deliverAll cs s).dec.fault = .overrun) := by
  decide

/-- The chunk `Repeat(5, 2)` in flight, its tag accepted, in the first two compositions, and delivered in the third. -/
def wireAt : State := { offering .rep 0xFFFF 0 [0x05] with frame := framed.frame, enc := midScan.enc, starts := 1 }
def chunksAt : ChunkSystem := ⟨{ framed with enc := midScan.enc, starts := 1 }, [.rep 0x05 2]⟩
def directAt : State := deliver (.rep 0x05 2) { framed with enc := midScan.enc, starts := 1 }

theorem wireAt_inv : wireAt.Inv where
  frame_ok := ⟨by decide, by decide⟩
  txb_ok := ⟨by decide, by decide⟩
  dst_ok := ⟨by decide, by decide⟩
  rxb_ok := ⟨by decide, by decide⟩
  enc_ok := midScan_encOk
  des_ok := ⟨by decide, fun h => absurd h (by decide), fun _ => ⟨2, by decide⟩, by decide, by decide⟩
  dst_state := ⟨by decide, fun _ h => absurd h (Nat.not_lt_zero _), fun h => absurd h (by decide)⟩
  starts_cover := by decide

/-- The byte that completes the chunk, and a reset of the receiving half at a boundary. -/
theorem witness_ChunkLevelFollowsWire :
    (wireAt.Inv ∧ WireMatchesChunks wireAt chunksAt ∧ Move.decTurn ≠ .decReset ∧ Move.decTurn ≠ .emptyChannel ∧
      ∃ t, makeMove .decTurn wireAt = .next t ∧ t.dec.cursor = 2) ∧
    (fullDst.Inv ∧ WireMatchesChunks fullDst ⟨fullDst, []⟩ ∧ fullDst.dec.des.phase = .tag0 ∧
      ∃ t, makeMove .decReset fullDst = .next t) :=
  ⟨⟨wireAt_inv, ⟨rfl, rfl, rfl, rfl, rfl, rfl, ⟨rfl, rfl⟩, by decide⟩, by decide, by decide, _, rfl, by decide⟩,
    fullDst_inv, ⟨rfl, rfl, rfl, rfl, rfl, rfl, ⟨rfl, rfl⟩, by decide⟩, rfl, _, rfl⟩

/-- ENC ahead of DEC by a chunk; a reset of the receiving half with nothing in flight. -/
theorem witness_DirectFollowsChunkLevel :
    (ChunksMatchDirect chunksAt directAt ∧ (nextChunksOf (chunkMove .encTurn chunksAt)).map (fun c => c.chunks.length) = some 2 ∧
      (nextChunksOf (chunkMove .decTurn chunksAt)).map ChunkSystem.chunks = some []) ∧
    (ChunksMatchDirect ⟨fullDst, []⟩ fullDst ∧ fullDst.dec.fault = .none ∧ ∃ c, chunkMove .decReset ⟨fullDst, []⟩ = .next c) :=
  ⟨⟨⟨rfl, rfl, fun _ => rfl, fun _ => rfl, fun _ => rfl, fun _ _ => rfl⟩, by decide, by decide⟩,
    ⟨rfl, rfl, fun _ => rfl, fun _ => rfl, fun _ => rfl, fun _ _ => rfl⟩, rfl, _, rfl⟩

/-- The halves in agreement, and a receiving half of another frame length, where a fault comes. -/
theorem witness_ThreeCompositionsAgree :
    (framed.AtBoundary ∧ framed.chan.txReady = true ∧ framed.chan.rxValid = true ∧
      (deliverAll (encodeFrame framed).chunks framed).dec.fault = .none) ∧
    (let s : State := { framed with params := ⟨4, 3, true, true⟩ }
     s.AtBoundary ∧ s.chan.txReady = true ∧ s.chan.rxValid = true ∧
       (deliverAll (encodeFrame s).chunks s).dec.fault = .overrun) :=
  ⟨⟨⟨rfl, ⟨rfl, rfl, rfl, rfl, rfl⟩, rfl, ⟨rfl, rfl⟩, rfl, rfl⟩, rfl, rfl, by decide⟩,
    ⟨rfl, ⟨rfl, rfl, rfl, rfl, rfl⟩, rfl, ⟨rfl, rfl⟩, rfl, rfl⟩, rfl, rfl, by decide⟩

/-- Program P1, frame 1, with its eight bytes delivered. -/
def roundTrip : State := scheduled framed (encodeMoves ++ List.replicate 8 .decTurn)

theorem witness_FrameRoundTrip :
    roundTrip.Synced ∧ roundTrip.AtBoundary ∧ roundTrip.chan.txReady = true ∧ roundTrip.chan.rxValid = true ∧
    roundTrip.schedule = .encStart :: List.replicate (roundTrip.params.encL + 2) .encTurn ++
      List.replicate (serAll (encodeChunks roundTrip)).length .decTurn ++ [] ∧ roundTrip.GoodEnd 0 :=
  ⟨⟨⟨rfl, rfl⟩, rfl, by decide⟩, ⟨rfl, ⟨rfl, rfl, rfl, rfl, rfl⟩, rfl, ⟨rfl, rfl⟩, rfl, rfl⟩, rfl, rfl, by decide,
    ⟨rfl, rfl, rfl, rfl⟩, rfl, rfl⟩

theorem witness_HostWritesFrameBetweenEncodes :
    small.enc.busy = false ∧ 3 < small.params.encL ∧ midScan.enc.busy = true ∧ small.params.encL ≤ 4 := by
  decide

/-- The last clause: a run of one frame over, with a fault held: a bad end. -/
def badEnd : State := { faulted with starts := 1, events := [.encDone] }

theorem badEnd_inv : badEnd.Inv where
  frame_ok := ⟨by decide, by decide⟩
  txb_ok := ⟨by decide, by decide⟩
  dst_ok := ⟨by decide, by decide⟩
  rxb_ok := ⟨by decide, by decide⟩
  enc_ok := small_encOk
  des_ok := ⟨by decide, fun h => absurd h (by decide), fun h => absurd h (by decide), by decide, by decide⟩
  dst_state := ⟨by decide, fun _ h => absurd h (Nat.not_lt_zero _), fun h => absurd h (by decide)⟩
  starts_cover := by decide

theorem witness_NothingToDoKeepsState :
    (small.chan.bytes = [] ∧ ((offering .tag0 0x0000 0 [0x01]).setRxValid false).chan.rxValid = false ∧
      small.enc.busy = false) ∧
    (badEnd.Inv ∧ badEnd.RunOver 1 ∧ badEnd.BadEnd 1 ∧ badEnd.schedule = []) :=
  ⟨⟨rfl, rfl, rfl⟩, badEnd_inv, ⟨rfl, rfl, rfl, rfl⟩, ⟨⟨rfl, rfl, rfl, rfl⟩, fun h => by cases h⟩, rfl⟩

/-- Steps that answer a next state from states that meet the invariant: the flush of a run, the move of DEC. -/
theorem witness_StepKeepsInvariant :
    (scheduled midScan [.encTurn]).Inv ∧ (∃ t, step (scheduled midScan [.encTurn]) = .next t) ∧
    (scheduled fullDst [.decTurn]).Inv ∧ (∃ t, step (scheduled fullDst [.decTurn]) = .next t) :=
  ⟨inv_scheduled midScan_inv _, ⟨_, rfl⟩, inv_scheduled fullDst_inv _, ⟨_, rfl⟩⟩

/-- The cursor at `L` itself. -/
theorem witness_CountersFitTheirWidth : fullDst.Inv ∧ fullDst.dec.cursor = 4 := ⟨fullDst_inv, rfl⟩

/-- The last byte of `End` with the cursor at `L`: the step that commits. -/
def commitStep : State := { fullDst with
  chan := { fullDst.chan with bytes := [0x00] }, dec := { fullDst.dec with des := { fullDst.dec.des with phase := .tag1 } } }

theorem witness_BaselineChangesOnlyAtFrameEnd : ∃ t, step commitStep = .next t ∧ t.dec.rxb ≠ commitStep.dec.rxb :=
  ⟨_, rfl, by decide⟩

theorem witness_FaultHoldsUntilReset :
    faulted.dec.fault ≠ .none ∧ faulted.schedule.head? ≠ some .decReset ∧ faulted.schedule.head? ≠ some .emptyChannel ∧
    ∃ t, step faulted = .next t :=
  ⟨by decide, by decide, by decide, _, rfl⟩

/-- A step that advances the cursor over written bytes, and one that does not advance it. -/
theorem witness_DestinationStableWindow :
    (∃ t, step (offering .rep 0xFFFF 0 [0x05]) = .next t ∧ t.dec.cursor = 2) ∧
    (offering .rep 0xFFFF 0 [0x05]).schedule.head? ≠ some .decReset ∧
    (∃ t, step commitStep = .next t ∧ t.dec.cursor ≤ commitStep.dec.cursor) ∧ 3 < commitStep.dec.cursor ∧
    commitStep.schedule.head? ≠ some .decReset :=
  ⟨⟨_, rfl, by decide⟩, by decide, ⟨_, rfl, by decide⟩, by decide, by decide⟩

theorem witness_EachStepWritesOneHalf :
    (∃ t, step (scheduled midScan [.encTurn]) = .next t) ∧ ∃ t, step (scheduled framed [.writeFrame 3 0x01]) = .next t :=
  ⟨⟨_, rfl⟩, _, rfl⟩

end Sys2Proof.Tests
end

section
/-! The decoder by the signed value of the tag (30_encoding.md rules R65, R69, R144). -/

namespace Sys2Proof.Machine

/-! ## The class of a tag, by its signed value -/

theorem classifyTag_of_run_zero {tag : TagWord} (h : runOfTag tag = 0) : classifyTag tag = .endMark := by
  simp [classifyTag, h]

theorem classifyTag_of_run_literal {tag : TagWord} {n : Nat} (h : runOfTag tag = n) (h1 : 1 ≤ n) (h2 : n ≤ 16) :
    classifyTag tag = .literal n := by
  have hcap : (Config.litCap : Int) = 16 := rfl
  simp only [classifyTag, h, hcap]
  rw [if_neg (by omega), if_pos (by omega), Int.toNat_natCast]

theorem classifyTag_of_run_rep {tag : TagWord} {count : Nat} (h : runOfTag tag = 1 - (count : Int)) (h1 : 2 ≤ count)
    (h2 : count ≤ 255) : classifyTag tag = .rep count := by
  have hcap : (Config.repCap : Int) = 255 := rfl
  simp only [classifyTag, h, hcap]
  rw [if_neg (by omega), if_neg (by omega), if_pos (by omega), sub_sub_cancel, Int.toNat_natCast]

/-! ## What the decoder answers, by the class of the tag -/

section
variable {lo hi : Byte} (rest : List Byte)

theorem decode_of_endMark (h : classifyTag (tagOfBytes lo hi) = .endMark) :
    decode (lo :: hi :: rest) = .instr .endFrame rest := by
  simp [decode, h]

theorem decode_of_literal {p : List Byte} (h : classifyTag (tagOfBytes lo hi) = .literal p.length) :
    decode (lo :: hi :: (p ++ rest)) = Decoded.ofRow (literalInstr p) rest := by
  simp [decode, h]

theorem decode_of_rep {count : Nat} (b : Byte) (h : classifyTag (tagOfBytes lo hi) = .rep count) :
    decode (lo :: hi :: b :: rest) = Decoded.ofRow (repeatInstr count b) rest := by
  simp [decode, h]

end

/-- Settles O3: the run fixes the tag's class, the class fixes what the decoder reads, and the row it then picks carries the chunk
of that payload. -/
theorem tagDecidesChunk : Obligations.TagDecidesChunk := by
  unfold Obligations.TagDecidesChunk
  intro lo hi rest
  refine ⟨fun h => decode_of_endMark rest (classifyTag_of_run_zero h), fun p h1 h2 hlen => ?_, fun b h1 h2 => ?_⟩
  · have hl1 : 1 ≤ p.length := by omega
    have hl2 : p.length ≤ 16 := by omega
    obtain ⟨i, hlegal, hrow, hchunk, -⟩ := literalInstr_row hl1 hl2
    refine ⟨i, hlegal, ?_, hchunk⟩
    rw [decode_of_literal rest (classifyTag_of_run_literal hlen.symm hl1 hl2), hrow]
    rfl
  · obtain ⟨count, hcount⟩ : ∃ count : Nat, runOfTag (tagOfBytes lo hi) = 1 - (count : Int) :=
      ⟨(1 - runOfTag (tagOfBytes lo hi)).toNat, by omega⟩
    have hc1 : 2 ≤ count := by omega
    have hc2 : count ≤ 255 := by omega
    obtain ⟨i, hlegal, hrow, hchunk, -⟩ := repeatInstr_row b hc1 hc2
    refine ⟨i, count, hlegal, ?_, hchunk, by omega, hc1, hc2⟩
    rw [decode_of_rep rest b (classifyTag_of_run_rep hcount hc1 hc2), hrow]
    rfl

end Sys2Proof.Machine
end

section
/-! The XOR-delta encoder (40_xor_delta_encoder.md): `XDE.BYTE` (rule R82) and `ENC.START` (rule R81). -/

namespace Sys2Proof.Machine

/-! ## XDE.BYTE -/

/-- The strap and the first-frame flag decide whether the baseline takes part (rules R31, R82). -/
theorem deltaByte_encXorActive (s : State) (f t : Byte) :
    deltaByte (encXorActive s) f t = if s.params.encXorEn = true ∧ s.enc.first = false then f ^^^ t else f := by
  simp [deltaByte, encXorActive]

/-- Both bytes are read before the baseline is written. -/
theorem xdeByte_snd (s : State) :
    (xdeByte s).2 = deltaByte (encXorActive s) (memRead s .frame s.enc.idx) (memRead s .txb s.enc.idx) := rfl

/-- The step writes the cells of `TXB` and the index, and nothing else. -/
theorem xdeByte_writes_txb_idx (s : State) :
    (xdeByte s).1 = { s with enc := { s.enc with txb := (xdeByte s).1.enc.txb, idx := s.enc.idx + 1 } } := rfl

/-- The baseline after the step: the raw frame byte at `ENC_IDX`, elsewhere what it held. -/
theorem memRead_xdeByte_txb (s : State) (j : Nat) :
    memRead (xdeByte s).1 .txb j = if j = s.enc.idx then memRead s .frame s.enc.idx else memRead s .txb j := by
  have hwrite : memRead (xdeByte s).1 .txb j =
      memRead (memWrite s .txb s.enc.idx (memRead s .frame s.enc.idx)) .txb j := memRead_congr rfl rfl j
  rw [hwrite, memRead_memWrite]
  simp

/-- Settles O23: the delta is taken from the bytes before the write, and the write leaves the raw byte at `ENC_IDX` alone. -/
theorem scanByteGivesDeltaAndUpdatesBaseline : Obligations.ScanByteGivesDeltaAndUpdatesBaseline := by
  unfold Obligations.ScanByteGivesDeltaAndUpdatesBaseline
  intro s
  refine ⟨?_, ?_, fun j hj => ?_, xdeByte_writes_txb_idx s⟩
  · rw [xdeByte_snd, deltaByte_encXorActive]
  · rw [memRead_xdeByte_txb, if_pos rfl]
  · rw [memRead_xdeByte_txb, if_neg hj]

/-! ## ENC.START -/

theorem encStart_of_not_busy {s : State} (h : s.enc.busy = false) :
    encStart s = s.setEnc { s.enc with busy := true, idx := 0 } := by
  simp [encStart, h]

theorem encStart_of_busy {s : State} (h : s.enc.busy = true) : encStart s = s := by
  simp [encStart, h]

/-- Settles O22: the move counts the start, which `ENC.START` then carries out or ignores by `ENC_BUSY` alone. -/
theorem startBeginsEncode : Obligations.StartBeginsEncode := by
  unfold Obligations.StartBeginsEncode
  refine fun s => ⟨encStart s.countStart, rfl, fun hidle => ?_, fun hbusy => ?_⟩
  · rw [encStart_of_not_busy (s := s.countStart) hidle]
    rfl
  · rw [encStart_of_busy (s := s.countStart) hbusy]
    rfl

end Sys2Proof.Machine
end

section
/-! The run-length encoder (41_rle_encoder.md): what `RLE.PUSH` does in each case of rule R90 (rules R91 to R97). -/

namespace Sys2Proof.Machine

/-! ## The case table of rule R90 -/

section
variable {w : Byte} {e : Enc}

theorem rlePush_of_idle (hm : e.mode = .idle) : rlePush w e = rleFirst w e := by
  simp only [rlePush, hm]

theorem rlePush_of_acc_ne (hm : e.mode = .acc) (hw : w ≠ e.prev) :
    rlePush w e = if e.llen + 1 < Config.litCap then rleExtend w e else rleLiteralCap w e := by
  simp only [rlePush, hm, if_neg hw]

theorem rlePush_of_acc_eq (hm : e.mode = .acc) (hw : w = e.prev) :
    rlePush w e = if e.llen = 0 then rleRunAfterCap w e else rleLiteralToRun w e := by
  simp only [rlePush, hm, if_pos hw]

theorem rlePush_of_rep_eq (hm : e.mode = .rep) (hw : w = e.prev) : rlePush w e = rleRun w e := by
  simp only [rlePush, hm, if_pos hw]

theorem rlePush_of_rep_ne (hm : e.mode = .rep) (hw : w ≠ e.prev) : rlePush w e = rleRunToLiteral w e := by
  simp only [rlePush, hm, if_neg hw]

/-! ## A run below its cap, and at it -/

theorem rleRun_below_cap (h : e.cnt < 254) : rleRun w e = ({ e with cnt := e.cnt + 1, prev := w }, none) := by
  rw [rleRun, if_neg (by simp only [Config.repCap]; omega)]

theorem rleRun_at_cap (h : e.cnt = 254) :
    rleRun w e = ({ e with cnt := 0, prev := w }, some (.rep e.prev Config.repCap)) := by
  rw [rleRun, if_pos (by simp only [h, Config.repCap])]

end

/-! ## Mode `Idle` -/

/-- Settles O24: the case table sends mode `Idle` to `rleFirst`, which starts the literal `[w]`. -/
theorem firstByteIsBuffered : Obligations.FirstByteIsBuffered := by
  unfold Obligations.FirstByteIsBuffered
  intro w e hm
  rw [rlePush_of_idle hm]
  exact ⟨rfl, e.startLiteral_pending w, rfl⟩

/-! ## Mode `Acc` -/

/-- Settles O25: with at most 14 bytes pending the length stays below the cap, so the byte is appended. -/
theorem differingByteExtendsLiteral : Obligations.DifferingByteExtendsLiteral := by
  unfold Obligations.DifferingByteExtendsLiteral
  intro w e hm hw hlen
  have hroom : e.llen + 1 < Config.litCap := by simp only [Config.litCap]; omega
  rw [rlePush_of_acc_ne hm hw, if_pos hroom]
  exact ⟨rfl, Enc.appendLiteral_pending w (by omega), rfl⟩

/-- Settles O26: the 16th byte leaves no room below the cap, and 16 bytes are a legal literal. -/
theorem literalCapEmits : Obligations.LiteralCapEmits := by
  unfold Obligations.LiteralCapEmits
  intro w e hm hw hlen
  have hfull : ¬ e.llen + 1 < Config.litCap := by simp [Config.litCap, hlen]
  have hsize : (e.pending ++ [w]).length = 16 := by
    rw [List.length_append, Enc.pending_length (by omega), hlen, List.length_singleton]
  rw [rlePush_of_acc_ne hm hw, if_neg hfull]
  exact ⟨⟨_, Chunk.ofBytes_legal ⟨by omega, hsize.le⟩⟩, hsize, Enc.pending_nil rfl, rfl⟩

/-- Settles O27: what is left of the literal has one byte less, so it is a legal chunk exactly when two or more were pending. -/
theorem equalByteOpensRunOfTwo : Obligations.EqualByteOpensRunOfTwo := by
  unfold Obligations.EqualByteOpensRunOfTwo
  intro w e hm hw hpos hlen
  have hleft : e.pending.dropLast.length = e.llen - 1 := by
    rw [List.length_dropLast, Enc.pending_length (by omega)]
  rw [rlePush_of_acc_eq hm hw, if_neg (by omega)]
  refine ⟨fun h2 => ⟨_, Chunk.ofBytes_legal ⟨by omega, ?_⟩⟩, fun h1 => ?_, hleft, Enc.pending_nil rfl, ?_⟩
  · rw [hleft, Config.litCap]
    omega
  · have hnil : e.pending.dropLast = [] := List.eq_nil_of_length_eq_zero (by omega)
    rw [rleLiteralToRun, hnil, Chunk.ofBytes_nil]
  · subst hw
    rfl

/-- Settles O28: with nothing pending there is no byte to withdraw, and the run starts at one. -/
theorem equalByteAfterCapOpensRunOfOne : Obligations.EqualByteAfterCapOpensRunOfOne := by
  unfold Obligations.EqualByteAfterCapOpensRunOfOne
  intro w e hm hw hnone
  rw [rlePush_of_acc_eq hm hw, if_pos hnone]
  subst hw
  exact ⟨rfl, rfl⟩

/-! ## Mode `Rep` -/

/-- Settles O29: the count tells the run below its cap from the one at it, and `ENC_PREV` is rewritten with its own value. -/
theorem equalByteExtendsRun : Obligations.EqualByteExtendsRun := by
  unfold Obligations.EqualByteExtendsRun
  intro w e hm hw
  rw [rlePush_of_rep_eq hm hw]
  subst hw
  refine ⟨fun hbelow => ?_, fun hcap => ?_⟩
  · rw [rleRun_below_cap hbelow]
    exact ⟨rfl, rfl⟩
  · rw [rleRun_at_cap hcap]
    exact ⟨⟨_, rfl⟩, rfl⟩

/-- Settles O30: a count of 1 to 254 is a legal repeat and a count of 0 is none; the differing byte starts the literal `[w]`. -/
theorem differingByteClosesRun : Obligations.DifferingByteClosesRun := by
  unfold Obligations.DifferingByteClosesRun
  intro w e hm hw hcnt
  rw [rlePush_of_rep_ne hm hw]
  refine ⟨fun h1 => ⟨_, Chunk.ofRun_legal ⟨h1, ?_⟩⟩, fun h0 => ?_, e.startLiteral_pending w, rfl⟩
  · rw [Config.repCap]
    omega
  · rw [rleRunToLiteral, h0]
    rfl

end Sys2Proof.Machine
end

section
/-! The run-length decoder (42_rle_decoder.md): a payload chunk at the cursor (rules R111 to R113), `END` (rules R114, R115), and one
well-formed frame of chunks (rule R118). -/

namespace Sys2Proof.Machine

theorem deliver_of_no_fault {s : State} (c : Chunk) (h : s.dec.fault = .none) : deliver c s = rld c s := accepting_of_none h

/-! ## Delta bytes at the cursor -/

/-- The strap and the first-frame flag decide whether the baseline takes part (rules R31, R120). -/
theorem undeltaByte_decXorActive (s : State) (d b : Byte) :
    undeltaByte (decXorActive s) d b = if s.params.decXorEn = true ∧ s.dec.first = false then d ^^^ b else d := by
  simp [undeltaByte, decXorActive]

/-- From `s` to `t` the delta bytes `ds` have been written at the cursor, each through `XDD.BYTE`, the cursor has passed them, and
nothing else has changed (rules R111, R112, R120). -/
structure WritesAtCursor (ds : List Byte) (s t : State) : Prop where
  written : ∀ (k : Nat) (hk : k < ds.length), memValue t .dst (s.dec.cursor + k) =
    some (undeltaByte (decXorActive s) ds[k] (memRead s .rxb (s.dec.cursor + k)))
  cursor : t.dec.cursor = s.dec.cursor + ds.length
  dst_elsewhere : ∀ j, j < s.dec.cursor ∨ s.dec.cursor + ds.length ≤ j → memValue t .dst j = memValue s .dst j
  rxb : ∀ j, memRead t .rxb j = memRead s .rxb j
  first : t.dec.first = s.dec.first
  fault : t.dec.fault = s.dec.fault
  des : t.dec.des = s.dec.des
  epoch : t.dec.epoch = s.dec.epoch
  events : t.events = s.events
  outside : SameOutsideReceiver s t

/-- What `DST` holds once the cursor has passed the delta bytes `ds`. -/
theorem memValue_rldBytes {ds : List Byte} {s : State} (h : s.dec.cursor + ds.length ≤ s.params.decL) (j : Nat) :
    memValue (rldBytes ds s) .dst j = memValue (xddBytes s s.dec.cursor ds) .dst j := by
  rw [rldBytes_of_fits h]
  exact memValue_congr rfl j

/-- Delta bytes that fit are written at the cursor (rules R111, R112). -/
theorem rldBytes_writesAtCursor {ds : List Byte} {s : State} (h : s.dec.cursor + ds.length ≤ s.params.decL) :
    WritesAtCursor ds s (rldBytes ds s) where
  written k hk := by
    rw [memValue_rldBytes h, memValue_xddBytes, if_pos ⟨by omega, by omega⟩, Nat.add_sub_cancel_left,
      List.getD_eq_getElem _ _ hk]
  dst_elsewhere j hj := by rw [memValue_rldBytes h, memValue_xddBytes, if_neg (by omega)]
  rxb j := by
    rw [rldBytes_of_fits h]
    exact memRead_congr (sp := .rxb) (xddBytes_rxb s _ ds) (xddBytes_epoch s _ ds) j
  cursor := by rw [rldBytes_of_fits h, State.setCursor_dec_cursor]
  first := by simp [rldBytes_of_fits h]
  fault := by simp [rldBytes_of_fits h]
  des := by simp [rldBytes_of_fits h]
  epoch := by simp [rldBytes_of_fits h]
  events := by simp [rldBytes_of_fits h]
  outside := by rw [rldBytes_of_fits h]; constructor <;> simp

/-! ## A chunk that carries payload -/

section
variable {c : Chunk} {s : State}

/-- A payload chunk that fits writes its delta bytes at the cursor (rules R111, R112). -/
theorem deliver_writesAtCursor (hc : c ≠ .endMark) (hf : s.dec.fault = .none) (h : s.dec.cursor + c.size ≤ s.params.decL) :
    WritesAtCursor c.expand s (deliver c s) := by
  rw [deliver_of_no_fault c hf, rld_payload hc]
  exact rldBytes_writesAtCursor (by rwa [Chunk.expand_length])

/-- A payload chunk that would pass `L` takes `OVERRUN` before any write (rule R113). -/
theorem deliver_of_overrun (hc : c ≠ .endMark) (hf : s.dec.fault = .none) (h : s.params.decL < s.dec.cursor + c.size) :
    deliver c s = { s with dec := { s.dec with fault := .overrun } } := by
  rw [deliver_of_no_fault c hf, rld_payload hc, rldBytes_of_overrun (by rwa [Chunk.expand_length])]
  rfl

end

/-- Settles O11: the boundary is the exact sum of the cursor and the chunk's size, and an instruction does what its chunk does. -/
theorem overrunWritesNothing : Obligations.OverrunWritesNothing := by
  unfold Obligations.OverrunWritesNothing
  refine fun c s hc hf => ⟨fun hover => ?_, fun hfits => ?_⟩
  · have hd := deliver_of_overrun hc hf hover
    exact ⟨hd, by rw [hd]; rfl, fun i hi => by rw [exec_of_chunk hi, hd]⟩
  · rw [(deliver_writesAtCursor hc hf hfits).fault, hf]

/-- Settles O9: the instruction delivers its literal, whose delta bytes are its payload. -/
theorem literalWritesAtCursor : Obligations.LiteralWritesAtCursor := by
  unfold Obligations.LiteralWritesAtCursor
  intro i p legal s hi hf
  have hc : Chunk.literal p legal ≠ .endMark := nofun
  rw [exec_of_chunk hi]
  refine ⟨fun hfits => ?_, fun hover => by rw [deliver_of_overrun hc hf hover]⟩
  have w : WritesAtCursor p s _ := deliver_writesAtCursor hc hf hfits
  refine ⟨_, rfl, fun k hk => ?_, w.cursor, w.dst_elsewhere, w.rxb, w.first, w.fault.trans hf, w.des, w.epoch,
    w.events, w.outside⟩
  rw [w.written k hk, undeltaByte_decXorActive]

/-- Settles O10: the instruction delivers its repeat, whose delta bytes are copies of its byte; one copy is the literal of it. -/
theorem repeatWritesAtCursor : Obligations.RepeatWritesAtCursor := by
  unfold Obligations.RepeatWritesAtCursor
  refine ⟨fun i b k legal s hi hf => ?_, fun _ _ _ _ => rfl⟩
  have hc : Chunk.rep b k legal ≠ .endMark := nofun
  rw [exec_of_chunk hi]
  refine ⟨fun hfits => ?_, fun hover => by rw [deliver_of_overrun hc hf hover]⟩
  have w : WritesAtCursor (repBytes b k) s _ := deliver_writesAtCursor hc hf hfits
  have hlen : (repBytes b k).length = k := repBytes_length b k
  refine ⟨_, rfl, fun j hj => ?_, by rw [w.cursor, hlen], fun j hj => w.dst_elsewhere j (by rwa [hlen]), w.rxb, w.first,
    w.fault.trans hf, w.des, w.epoch, w.events, w.outside⟩
  rw [w.written j (by rwa [hlen]), undeltaByte_decXorActive]
  simp only [repBytes, List.getElem_replicate]

/-! ## END -/

/-- What `END` leaves when the frame is full (rule R114). -/
def commitFrame (s : State) : State := (((blrRxCommit s).setCursor 0).setDecFirst false).raiseEvent .frameDone

theorem deliver_endMark_of_full {s : State} (hf : s.dec.fault = .none) (h : s.dec.cursor = s.params.decL) :
    deliver .endMark s = commitFrame s := by
  rw [deliver_of_no_fault _ hf]
  exact rldEnd_of_full h

theorem deliver_endMark_of_short {s : State} (hf : s.dec.fault = .none) (h : s.dec.cursor ≠ s.params.decL) :
    deliver .endMark s = { s with dec := { s.dec with fault := .lengthMismatch } } := by
  rw [deliver_of_no_fault _ hf]
  exact rldEnd_of_short h

section
variable (s : State)
@[simp] theorem commitFrame_cursor : (commitFrame s).dec.cursor = 0 := rfl
@[simp] theorem commitFrame_first : (commitFrame s).dec.first = false := rfl
@[simp] theorem commitFrame_fault : (commitFrame s).dec.fault = s.dec.fault := by simp [commitFrame]
@[simp] theorem commitFrame_des : (commitFrame s).dec.des = s.dec.des := by simp [commitFrame]
@[simp] theorem commitFrame_epoch : (commitFrame s).dec.epoch = s.dec.epoch := by simp [commitFrame]
@[simp] theorem commitFrame_dst : (commitFrame s).dec.dst = s.dec.dst := by simp [commitFrame]
@[simp] theorem commitFrame_events : (commitFrame s).events = s.events ++ [.frameDone] := by simp [commitFrame]

theorem commitFrame_outside : SameOutsideReceiver s (commitFrame s) := by constructor <;> simp [commitFrame]

/-- The commit takes `DST` whole into `RXB` and writes no other byte of it (rule R153). -/
theorem memRead_commitFrame_rxb (j : Nat) :
    memRead (commitFrame s) .rxb j = if j < s.params.decL then memRead s .dst j else memRead s .rxb j := by
  rw [← memRead_copy_rxb]
  exact memRead_congr rfl rfl j

theorem memValue_commitFrame_dst (j : Nat) : memValue (commitFrame s) .dst j = memValue s .dst j :=
  memValue_congr (sp := .dst) (commitFrame_dst s) j

theorem memRead_commitFrame_dst (j : Nat) : memRead (commitFrame s) .dst j = memRead s .dst j :=
  memRead_congr (sp := .dst) (commitFrame_dst s) (commitFrame_epoch s) j

end

/-- Settles O7: with the cursor at `L` the step is the commit. -/
theorem endCommitsFullFrame : Obligations.EndCommitsFullFrame := by
  unfold Obligations.EndCommitsFullFrame
  intro s hf hfull
  refine ⟨commitFrame s, ?_, fun i hi => ?_, fun i hi => ?_, commitFrame_cursor s, commitFrame_first s,
    commitFrame_events s, memValue_commitFrame_dst s, (commitFrame_fault s).trans hf, commitFrame_des s, commitFrame_epoch s,
    commitFrame_outside s⟩
  · rw [exec_of_chunk rfl, deliver_endMark_of_full hf hfull]
  · rw [memRead_commitFrame_rxb, if_pos hi]
  · rw [memRead_commitFrame_rxb, if_neg (by omega)]

/-- Settles O8: away from `L` the step raises the fault alone. -/
theorem endShortOfFrameFaults : Obligations.EndShortOfFrameFaults := by
  unfold Obligations.EndShortOfFrameFaults
  intro s hf hshort
  exact ⟨by rw [exec_of_chunk rfl, deliver_endMark_of_short hf hshort], rfl⟩

/-! ## One frame of chunks -/

theorem xddBytes_append (ds es : List Byte) (s : State) (p : Nat) :
    xddBytes s p (ds ++ es) = xddBytes (xddBytes s p ds) (p + ds.length) es := by
  induction ds generalizing s p with
  | nil => rfl
  | cons d ds ih => rw [List.cons_append, xddBytes, ih, xddBytes, List.length_cons, Nat.add_right_comm, Nat.add_assoc]

/-- `XDD.BYTE` is given its position and does not look at the cursor. -/
theorem xddBytes_setCursor (ds : List Byte) (s : State) (p c : Nat) :
    xddBytes (s.setCursor c) p ds = (xddBytes s p ds).setCursor c := by
  induction ds generalizing s p with
  | nil => rfl
  | cons d ds ih => exact ih (xddByte s p d) (p + 1)

/-- Delta bytes delivered in two parts are delivered as one. -/
theorem rldBytes_append {ds es : List Byte} {s : State} (h : s.dec.cursor + (ds.length + es.length) ≤ s.params.decL) :
    rldBytes (ds ++ es) s = rldBytes es (rldBytes ds s) := by
  rw [rldBytes_of_fits (by rwa [List.length_append]), rldBytes_of_fits (ds := ds) (by omega), rldBytes_of_fits (by simp; omega)]
  simp only [State.setCursor_dec_cursor, xddBytes_setCursor, xddBytes_append, List.length_append, Nat.add_assoc]
  rfl

/-- Payload chunks that fit together are delivered as one run of their delta bytes, wherever it is cut into chunks. -/
theorem deliverAll_payload (cs : List Chunk) (s : State) (hf : s.dec.fault = .none) (hcs : ∀ c, c ∈ cs → c ≠ .endMark)
    (h : s.dec.cursor + (expandAll cs).length ≤ s.params.decL) : deliverAll cs s = rldBytes (expandAll cs) s := by
  induction cs generalizing s with
  | nil => exact (rldBytes_of_fits h).symm
  | cons c cs ih =>
    have hexp : expandAll (c :: cs) = c.expand ++ expandAll cs := rfl
    rw [hexp, List.length_append] at h
    rw [hexp]
    have hc : deliver c s = rldBytes c.expand s := by
      rw [deliver_of_no_fault c hf, rld_payload (hcs c List.mem_cons_self)]
    have w := rldBytes_writesAtCursor (ds := c.expand) (s := s) (by omega)
    calc deliverAll (c :: cs) s = deliverAll cs (rldBytes c.expand s) := by rw [← hc]; rfl
      _ = rldBytes (expandAll cs) (rldBytes c.expand s) :=
        ih _ (w.fault.trans hf) (fun c' h' => hcs c' (List.mem_cons_of_mem _ h')) (by rw [w.cursor, w.outside.params]; omega)
      _ = rldBytes (c.expand ++ expandAll cs) s := (rldBytes_append h).symm

/-- Settles O41: the payload chunks act as one run of `L` delta bytes, which leaves the cursor where `End` commits. -/
theorem wellFormedFrameDecodes : Obligations.WellFormedFrameDecodes := by
  unfold Obligations.WellFormedFrameDecodes
  intro s cs hf h0 hcs hlen
  have hfits : s.dec.cursor + (expandAll cs).length ≤ s.params.decL := by omega
  have w : WritesAtCursor (expandAll cs) s (deliverAll cs s) := by
    rw [deliverAll_payload cs s hf hcs hfits]
    exact rldBytes_writesAtCursor hfits
  have hfull : (deliverAll cs s).dec.cursor = (deliverAll cs s).params.decL := by
    rw [w.cursor, w.outside.params, h0, hlen, Nat.zero_add]
  have hend : deliverAll (cs ++ [.endMark]) s = commitFrame (deliverAll cs s) := by
    rw [deliverAll_append]
    exact deliver_endMark_of_full (w.fault.trans hf) hfull
  rw [hend]
  refine ⟨fun i hi => ?_, fun i hi => ?_, commitFrame_cursor _, commitFrame_first _, ?_, ?_⟩
  · have hw := w.written i hi
    rw [h0, Nat.zero_add] at hw
    rw [memValue_commitFrame_dst, hw, undeltaByte]
  · rw [memRead_commitFrame_rxb, w.outside.params, if_pos hi, memRead_commitFrame_dst]
  · rw [commitFrame_fault, w.fault, hf]
  · rw [commitFrame_events, w.events]

end Sys2Proof.Machine
end

section
/-! The chunk serializer (44_chunk_serializer.md rules R126 to R130): its forms, their lengths, and the chunk each is read as. -/

namespace Sys2Proof.Machine

/-! ## The tag of each form -/

theorem classifyTag_literalTag {n : Nat} (h1 : 1 ≤ n) (h2 : n ≤ 16) :
    classifyTag (tagOfBytes (BitVec.ofNat 8 n) 0x00) = .literal n := by
  have e : (tagOfBytes (BitVec.ofNat 8 n) 0x00).toNat = n := by
    rw [tagOfBytes_toNat, BitVec.toNat_ofNat]
    simp
    omega
  rw [classifyTag_eq, e, if_neg (by omega), if_pos h2]

theorem classifyTag_repeatTag {k : Nat} (h1 : 2 ≤ k) (h2 : k ≤ 255) :
    classifyTag (tagOfRun (1 - (k : Int))) = .rep k := by
  rw [classifyTag_eq, tagOfRun_repeat_toNat h1 h2, if_neg (by omega), if_neg (by omega), if_neg (by omega)]
  congr 1
  omega

/-! ## What the decoder answers to each form -/

theorem decode_wireEnd (rest : List Byte) : decode (wireEnd ++ rest) = .instr .endFrame rest :=
  decode_of_endMark rest (by decide)

theorem decode_wireLiteral {p : List Byte} (h1 : 1 ≤ p.length) (h2 : p.length ≤ 16) (rest : List Byte) :
    decode (wireLiteral p ++ rest) = Decoded.ofRow (literalInstr p) rest :=
  decode_of_literal rest (classifyTag_literalTag h1 h2)

theorem decode_wireRepeat {k : Nat} (b : Byte) (h1 : 2 ≤ k) (h2 : k ≤ 255) (rest : List Byte) :
    decode (wireRepeat k b ++ rest) = Decoded.ofRow (repeatInstr k b) rest :=
  decode_of_rep rest b (by rw [tagOfBytes_low_high, classifyTag_repeatTag h1 h2])

/-! ## The form of each chunk -/

theorem ser_literal {p : List Byte} (legal) : ser (.literal p legal) = wireLiteral p := rfl

/-- A repeat of one byte is sent as the literal of it (rule R129). -/
theorem ser_rep_one (b : Byte) (legal) : ser (.rep b 1 legal) = wireLiteral [b] := rfl

theorem ser_rep_of_ne_one {b : Byte} {k : Nat} (legal) (hk : k ≠ 1) : ser (.rep b k legal) = wireRepeat k b :=
  if_neg hk

theorem ser_rep_length (b : Byte) (k : Nat) (legal) : (ser (.rep b k legal)).length = 3 := by
  by_cases hk : k = 1
  · subst hk
    rw [ser_rep_one]
    rfl
  · rw [ser_rep_of_ne_one legal hk]
    rfl

theorem ser_literal_length (p : List Byte) (legal) : (ser (.literal p legal)).length = 2 + p.length := by
  rw [ser_literal, wireLiteral, List.length_cons, List.length_cons]
  omega

@[simp] theorem serAll_nil : serAll [] = [] := rfl

@[simp] theorem serAll_cons (c : Chunk) (cs : List Chunk) : serAll (c :: cs) = ser c ++ serAll cs := List.flatMap_cons

/-! ## The chunk a form is read as -/

/-- The chunk that the receiving half reads from `Ser(c)`: `Repeat(b, 1)` is read as `Literal([b])`, any other chunk as itself
(rules R129, R130). -/
def Chunk.onWire : Chunk → Chunk
  | .rep b k legal => if k = 1 then .literal [b] ⟨Nat.le_refl 1, by simp [Config.litCap]⟩ else .rep b k legal
  | c => c

theorem chunkOf_decode_wireLiteral {p : List Byte} (legal) (rest : List Byte) :
    ∃ i, decode (wireLiteral p ++ rest) = .instr i rest ∧ chunkOf i = some (.literal p legal) := by
  obtain ⟨i, _, hrow, hchunk, -⟩ := literalInstr_row legal.1 legal.2
  exact ⟨i, by rw [decode_wireLiteral legal.1 legal.2, hrow, Decoded.ofRow], hchunk⟩

theorem chunkOf_decode_wireRepeat {b : Byte} {k : Nat} (legal) (h1 : 2 ≤ k) (rest : List Byte) :
    ∃ i, decode (wireRepeat k b ++ rest) = .instr i rest ∧ chunkOf i = some (.rep b k legal) := by
  obtain ⟨i, _, hrow, hchunk, -⟩ := repeatInstr_row b h1 legal.2
  exact ⟨i, by rw [decode_wireRepeat b h1 legal.2, hrow, Decoded.ofRow], hchunk⟩

/-- A form is decoded to an instruction that carries the chunk it is read as, whatever follows it. -/
theorem decode_ser (c : Chunk) (rest : List Byte) :
    ∃ i, decode (ser c ++ rest) = .instr i rest ∧ chunkOf i = some c.onWire := by
  cases c with
  | endMark => exact ⟨.endFrame, decode_wireEnd rest, rfl⟩
  | literal p legal => exact chunkOf_decode_wireLiteral legal rest
  | rep b k legal =>
    by_cases hk : k = 1
    · subst hk
      exact chunkOf_decode_wireLiteral _ rest
    · rw [ser_rep_of_ne_one legal hk, Chunk.onWire, if_neg hk]
      exact chunkOf_decode_wireRepeat legal (by omega) rest

/-- Chunks with one form are read as one chunk: the decoder is a function of the bytes. -/
theorem onWire_eq_of_ser_eq {c c' : Chunk} (h : ser c = ser c') : c.onWire = c'.onWire := by
  obtain ⟨i, hi, hc⟩ := decode_ser c []
  obtain ⟨i', hi', hc'⟩ := decode_ser c' []
  rw [h, hi'] at hi
  cases hi
  exact Option.some.inj (hc.symm.trans hc')

theorem onWire_cases (c : Chunk) :
    c.onWire = c ∨ ∃ b legal legal', c = .rep b 1 legal ∧ c.onWire = .literal [b] legal' := by
  cases c with
  | endMark => exact .inl rfl
  | literal p legal => exact .inl rfl
  | rep b k legal =>
    by_cases hk : k = 1
    · subst hk
      exact .inr ⟨b, legal, _, rfl, rfl⟩
    · exact .inl (if_neg hk)

/-- Chunks with one form are the same, or a repeat of one byte and the literal of it (rule R130). -/
theorem eq_or_repOne_of_ser_eq {c c' : Chunk} (h : ser c = ser c') :
    c = c' ∨ ∃ b legal legal',
      (c = .rep b 1 legal ∧ c' = .literal [b] legal') ∨ (c = .literal [b] legal' ∧ c' = .rep b 1 legal) := by
  have hw : c.onWire = c'.onWire := onWire_eq_of_ser_eq h
  obtain hc | ⟨b, legal, legal', hc, hlit⟩ := onWire_cases c <;>
    obtain hc' | ⟨b', legal₁, legal₁', hc', hlit'⟩ := onWire_cases c'
  · exact .inl (hc.symm.trans (hw.trans hc'))
  · exact .inr ⟨b', legal₁, legal₁', .inr ⟨hc.symm.trans (hw.trans hlit'), hc'⟩⟩
  · exact .inr ⟨b, legal, legal', .inl ⟨hc, hc'.symm.trans (hw.symm.trans hlit)⟩⟩
  · rw [hlit, hlit'] at hw
    cases hw
    exact .inl (hc.trans hc'.symm)

/-- Settles O5: the decoder reads a form back as its chunk, `Repeat(b, 1)` as `Literal([b])`, so no other two share one. -/
theorem serializedFormsLengthAndInjectivity : Obligations.SerializedFormsLengthAndInjectivity := by
  unfold Obligations.SerializedFormsLengthAndInjectivity
  exact ⟨rfl, ser_literal_length, ser_rep_length, fun cs c => serAll_cons c cs, serAll_nil, fun _ _ _ => rfl,
    fun _ _ => eq_or_repOne_of_ser_eq⟩

end Sys2Proof.Machine
end

section
/-! The chunk deserializer (45_chunk_deserializer.md): the two tag bytes, the low one (rule R136) and the high one of a reserved tag
(rules R137, R141). -/

namespace Sys2Proof.Machine

/-! ## A tag between the literals and the repeats -/

theorem classifyTag_of_reserved {tag : TagWord} (h1 : 17 ≤ tag.toNat) (h2 : tag.toNat ≤ 0xFF01) :
    classifyTag tag = .reserved := by
  rw [classifyTag_eq, if_neg (by omega), if_neg (by omega), if_pos h2]

/-! ## The registers after a tag byte -/

section
variable {d : Des} {x : Byte}

theorem desAccept_of_tag0 (h : d.phase = .tag0) :
    desAccept d x = ({ d with tag := tagOfBytes x (tagHigh d.tag), phase := .tag1 }, none) := by
  simp only [desAccept, h, desTag0]

theorem desAccept_of_tag1 (h : d.phase = .tag1) : desAccept d x = desTag1 d x := by
  simp only [desAccept, h]

theorem desTag1_of_reserved (h : classifyTag (tagOfBytes (tagLow d.tag) x) = .reserved) :
    desTag1 d x =
      ({ d with tag := tagOfBytes (tagLow d.tag) x }, some (reservedInstr (tagOfBytes (tagLow d.tag) x))) := by
  simp only [desTag1, h]

end

/-! ## The turn of DEC that takes the byte -/

section
variable {s : State} {x : Byte} {rest : List Byte} {d : Des}

/-- A byte that completes nothing: the deserializer's own writes are the whole step. -/
theorem decTurn_of_accept_none (ho : s.Offers x rest) (h : desAccept s.dec.des x = (d, none)) :
    decTurn s = .next ((s.setBytes rest).setDes d) := by
  rw [decTurn_of_offers ho]
  exact desByte_of_none h

/-- A byte that completes an instruction: the step is its meaning, behind the deserializer's own writes (rule R140). -/
theorem decTurn_of_accept_some {i : Instr} (ho : s.Offers x rest) (h : desAccept s.dec.des x = (d, some i)) :
    decTurn s = exec i ((s.setBytes rest).setDes d) := by
  rw [decTurn_of_offers ho]
  exact desByte_of_some h

/-- A high byte that completes a reserved tag: the tag is kept, the phase is not touched, and `MALFORMED_TAG` is raised
(rule R141). -/
theorem decTurn_of_reserved (ho : s.Offers x rest) (hphase : s.dec.des.phase = .tag1)
    (hres : classifyTag (tagOfBytes (tagLow s.dec.des.tag) x) = .reserved) :
    decTurn s =
      .next (((s.setBytes rest).setDes { s.dec.des with tag := tagOfBytes (tagLow s.dec.des.tag) x }).setFault
        .malformedTag) := by
  obtain ⟨hchunk, hwf, -⟩ := reservedInstr_row hres
  have hacc := (desAccept_of_tag1 hphase).trans (desTag1_of_reserved hres)
  rw [decTurn_of_accept_some ho hacc, exec_of_reserved hwf hchunk]
  exact congrArg _ (malformedTag_of_none ho.no_fault)

end

/-- Settles O18: what the three ranges leave is 17 to 0xFF01, the reserved class, and the phase the step does not touch is
`TAG1`. -/
theorem reservedTagOnTheWireFaults : Obligations.ReservedTagOnTheWireFaults := by
  unfold Obligations.ReservedTagOnTheWireFaults
  intro s x rest ho hphase hend hlit hrep
  have hbound := (tagOfBytes (tagLow s.dec.des.tag) x).isLt
  have hres := classifyTag_of_reserved (tag := tagOfBytes (tagLow s.dec.des.tag) x) (by omega) (by omega)
  rw [← hphase]
  exact ⟨decTurn_of_reserved ho hphase hres, rfl⟩

/-- Settles O14: the new tag is the byte under the old high half, and one byte of a tag completes nothing. -/
theorem lowTagByteAccepted : Obligations.LowTagByteAccepted := by
  unfold Obligations.LowTagByteAccepted
  intro s x rest ho hphase
  exact ⟨tagOfBytes x (tagHigh s.dec.des.tag), tagLow_tagOfBytes _ _, tagHigh_tagOfBytes _ _,
    decTurn_of_accept_none ho (desAccept_of_tag0 hphase)⟩

end Sys2Proof.Machine
end

section
/-! The values the two resets leave (70_reset_and_hazards.md rules R181, R182). -/

namespace Sys2Proof.Machine

/-- A space with nothing listed reads as the value its unlisted bytes have, at every index. -/
theorem memRead_of_nothing_listed {s : State} {sp : Space} {v : Byte} (hu : unlisted sp = some v) (hc : s.cells sp = [])
    (i : Nat) : memRead s sp i = v := by
  have hv : memValue s sp i = some v := by
    rw [memValue, hc, hu]
    rfl
  rw [memRead, hv, Option.getD_some]

theorem makeMove_encReset (s : State) : makeMove .encReset s = .next { s with enc := Enc.reset } :=
  congrArg Host.Outcome.next (resetEnc_eq s)

theorem makeMove_decReset (s : State) : makeMove .decReset s = .next { s with dec := Dec.reset (s.dec.epoch + 1) } :=
  congrArg Host.Outcome.next (resetDec_eq s)

/-- Settles O47: the whole sending half becomes `Enc.reset`, whose registers are rule R181's and whose baseline lists nothing. -/
theorem senderResetValues : Obligations.SenderResetValues := by
  unfold Obligations.SenderResetValues
  intro s
  exact ⟨_, makeMove_encReset s, memRead_of_nothing_listed rfl rfl, rfl, rfl, rfl, rfl, rfl, rfl⟩

/-- Settles O48: the whole receiving half becomes `Dec.reset` of a new epoch, whose registers are rule R182's and whose baseline
lists nothing. -/
theorem receiverResetValues : Obligations.ReceiverResetValues := by
  unfold Obligations.ReceiverResetValues
  intro s
  exact ⟨_, makeMove_decReset s, memRead_of_nothing_listed rfl rfl, rfl, rfl, rfl, rfl, rfl⟩

end Sys2Proof.Machine
end

section
/-! The decoder and the encoder of instructions are inverse to each other (30_encoding.md section 2, rules R144 to R146), sample wire
forms, and the size of a serialized frame (rule R133). -/

namespace Sys2Proof.Machine

/-! ## The tag of each class -/

section
variable {tag : TagWord}

theorem toNat_of_classify_endMark (h : classifyTag tag = .endMark) : tag.toNat = 0 := by
  rw [classifyTag_eq] at h
  by_contra hne
  split_ifs at h

theorem toNat_of_classify_literal {n : Nat} (h : classifyTag tag = .literal n) : tag.toNat = n ∧ 1 ≤ n ∧ n ≤ 16 := by
  rw [classifyTag_eq] at h
  split_ifs at h
  injection h
  omega

theorem toNat_of_classify_rep {k : Nat} (h : classifyTag tag = .rep k) : tag.toNat = 65537 - k ∧ 2 ≤ k ∧ k ≤ 255 := by
  have hlt := tag.isLt
  rw [classifyTag_eq] at h
  split_ifs at h
  injection h
  omega

/-! ## Each form is its tag and then its payload -/

theorem cons_cons_eq_wireTag (lo hi : Byte) (rest : List Byte) :
    lo :: hi :: rest = wireTag (tagOfBytes lo hi) ++ rest := by
  simp [wireTag]

theorem wireEnd_eq_wireTag (h : classifyTag tag = .endMark) : wireEnd = wireTag tag := by
  have htag : tag = 0 := BitVec.eq_of_toNat_eq (toNat_of_classify_endMark h)
  rw [htag]
  rfl

theorem wireLiteral_eq_wireTag {p : List Byte} (h : classifyTag tag = .literal p.length) :
    wireLiteral p = wireTag tag ++ p := by
  obtain ⟨hn, -, h16⟩ := toNat_of_classify_literal h
  have hlow : tagLow tag = BitVec.ofNat 8 p.length := by
    apply BitVec.eq_of_toNat_eq
    rw [tagLow_toNat, BitVec.toNat_ofNat, hn]
  have hhigh : tagHigh tag = 0x00 := by
    apply BitVec.eq_of_toNat_eq
    rw [tagHigh_toNat, hn, Nat.div_eq_of_lt (by omega)]
    rfl
  rw [wireTag, hlow, hhigh]
  rfl

theorem wireRepeat_eq_wireTag {k : Nat} (h : classifyTag tag = .rep k) (b : Byte) : wireRepeat k b = wireTag tag ++ [b] := by
  obtain ⟨hn, h2, h255⟩ := toNat_of_classify_rep h
  have htag : tagOfRun (1 - (k : Int)) = tag := by
    apply BitVec.eq_of_toNat_eq
    rw [tagOfRun_repeat_toNat h2 h255, hn]
  rw [wireRepeat, htag]
  rfl

theorem decode_wireTag_of_reserved (h : classifyTag tag = .reserved) (rest : List Byte) :
    decode (wireTag tag ++ rest) = .instr (reservedInstr tag) rest := by
  simp [wireTag, decode, h]

end

/-! ## The rows of well-formed instructions -/

/-- A well-formed instruction is the one the decoder picks for its operands (rule R69). -/
theorem row_of_wf {i : Instr} (hw : i.wf = true) :
    i = .endFrame ∨ (∃ p, 1 ≤ p.length ∧ p.length ≤ 16 ∧ literalInstr p = some i) ∨
      (∃ k b, 2 ≤ k ∧ k ≤ 255 ∧ repeatInstr k b = some i) ∨ ∃ tag, classifyTag tag = .reserved ∧ reservedInstr tag = i := by
  cases i
  case endFrame => exact .inl rfl
  case lit1 p | lit2 p | lit3 p | lit4 p | lit5 p | lit6 p | lit7 p | lit8 p | lit9 p | lit10 p | lit11 p | lit12 p | lit13 p
      | lit14 p | lit15 p | lit16 p =>
    have hlen := eq_of_beq hw
    exact .inr (.inl ⟨p, by omega, by omega, by simp only [literalInstr, hlen]⟩)
  case rep2To129 k b | rep130To193 k b | rep194To225 k b | rep226To241 k b | rep242To249 k b | rep250To253 k b
      | rep254To255 k b =>
    simp only [Instr.wf, Bool.and_eq_true, decide_eq_true_eq] at hw
    refine .inr (.inr (.inl ⟨k, b, by omega, by omega, ?_⟩))
    unfold repeatInstr
    repeat rw [if_neg (by omega)]
    rw [if_pos (by omega)]
  case reserved0 tag | reserved1 tag | reserved2 tag | reserved3 tag | reserved4 tag | reserved5 tag | reserved6 tag
      | reserved7 tag | reserved8 tag | reserved9 tag | reserved10 tag | reserved11 tag | reserved12 tag | reserved13 tag
      | reserved14 tag | reserved15 tag | reserved16 tag | reserved17 tag | reserved18 tag | reserved19 tag | reserved20 tag
      | reserved21 tag =>
    simp only [Instr.wf, Bool.and_eq_true, decide_eq_true_eq] at hw
    refine .inr (.inr (.inr ⟨tag, classifyTag_of_reserved (by omega) (by omega), ?_⟩))
    unfold reservedInstr
    repeat rw [if_neg (by omega)]
    all_goals rw [if_pos (by omega)]

/-- Settles O1: a well-formed instruction is the decoder's own row for its operands, and the decoder reads its form back. -/
theorem decodeGivesBackEncoded : Obligations.DecodeGivesBackEncoded := by
  unfold Obligations.DecodeGivesBackEncoded
  intro i rest hw
  obtain rfl | ⟨p, h1, h16, hrow⟩ | ⟨k, b, h2, h255, hrow⟩ | ⟨tag, hres, rfl⟩ := row_of_wf hw
  · exact decode_wireEnd rest
  · obtain ⟨i', -, hi', -, -, henc⟩ := literalInstr_row h1 h16
    obtain rfl : i' = i := Option.some.inj (hi'.symm.trans hrow)
    rw [henc, decode_wireLiteral h1 h16, hrow, Decoded.ofRow]
  · obtain ⟨i', -, hi', -, -, henc⟩ := repeatInstr_row b h2 h255
    obtain rfl : i' = i := Option.some.inj (hi'.symm.trans hrow)
    rw [henc, decode_wireRepeat b h2 h255, hrow, Decoded.ofRow]
  · rw [(reservedInstr_row hres).2.2, decode_wireTag_of_reserved hres]

/-! ## What decodes is an encoding -/

/-- The rows the decoder picks encode as their form. -/
theorem encode_literalInstr {p : List Byte} {i : Instr} (h1 : 1 ≤ p.length) (h16 : p.length ≤ 16)
    (h : literalInstr p = some i) : encode i = wireLiteral p := by
  obtain ⟨i', -, hi', -, -, henc⟩ := literalInstr_row h1 h16
  rwa [Option.some.inj (hi'.symm.trans h)] at henc

theorem encode_repeatInstr {k : Nat} {b : Byte} {i : Instr} (h2 : 2 ≤ k) (h255 : k ≤ 255)
    (h : repeatInstr k b = some i) : encode i = wireRepeat k b := by
  obtain ⟨i', -, hi', -, -, henc⟩ := repeatInstr_row b h2 h255
  rwa [Option.some.inj (hi'.symm.trans h)] at henc

theorem ofRow_eq_instr {row : Option Instr} {rest rest' : List Byte} {i : Instr}
    (h : Decoded.ofRow row rest = .instr i rest') : row = some i ∧ rest = rest' := by
  cases row with
  | none => cases h
  | some j =>
    cases h
    exact ⟨rfl, rfl⟩

/-- Settles O2: by the class of the tag, which fixes the row and the bytes the decoder reads. -/
theorem decodedIsWellFormedAndReencodes : Obligations.DecodedIsWellFormedAndReencodes := by
  unfold Obligations.DecodedIsWellFormedAndReencodes
  intro bs rest i h
  match bs, h with
  | lo :: hi :: tail, h =>
    cases hcls : classifyTag (tagOfBytes lo hi) with
    | endMark =>
      rw [decode_of_endMark tail hcls] at h
      cases h
      exact ⟨rfl, by rw [cons_cons_eq_wireTag, ← wireEnd_eq_wireTag hcls]; rfl⟩
    | literal n =>
      obtain ⟨-, h1, h16⟩ := toNat_of_classify_literal hcls
      simp only [decode, hcls] at h
      split at h
      · cases h
      · obtain ⟨hrow, rfl⟩ := ofRow_eq_instr h
        have hn : (tail.take n).length = n := List.length_take_of_le (by omega)
        refine ⟨literalInstr_wf hrow, ?_⟩
        rw [encode_literalInstr (by omega) (by omega) hrow, wireLiteral_eq_wireTag (by rwa [hn]), List.append_assoc,
          List.take_append_drop, cons_cons_eq_wireTag]
    | rep k =>
      obtain ⟨-, h2, h255⟩ := toNat_of_classify_rep hcls
      cases tail with
      | nil => simp [decode, hcls] at h
      | cons b tail =>
        rw [decode_of_rep tail b hcls] at h
        obtain ⟨hrow, rfl⟩ := ofRow_eq_instr h
        refine ⟨repeatInstr_wf hrow, ?_⟩
        rw [encode_repeatInstr h2 h255 hrow, wireRepeat_eq_wireTag hcls, cons_cons_eq_wireTag lo hi, List.append_assoc]
        rfl
    | reserved =>
      rw [cons_cons_eq_wireTag, decode_wireTag_of_reserved hcls] at h
      cases h
      obtain ⟨-, hwf, henc⟩ := reservedInstr_row hcls
      exact ⟨hwf, by rw [henc, ← cons_cons_eq_wireTag]⟩

/-- Settles O4: the five byte sequences run through the decoder. -/
theorem sampleWireFormsDecode : Obligations.SampleWireFormsDecode := by
  unfold Obligations.SampleWireFormsDecode
  decide

/-! ## The size of a serialized frame -/

/-- Settles O6: the sum over the chunks, each literal adding two bytes to its payload and each repeat three. -/
theorem serializedFrameSize : Obligations.SerializedFrameSize := by
  unfold Obligations.SerializedFrameSize
  intro cs hcs
  induction cs with
  | nil => rfl
  | cons c cs ih =>
    have htail := ih fun c' hc' => hcs c' (List.mem_cons_of_mem _ hc')
    rw [List.cons_append, serAll_cons, List.length_append, htail]
    cases c with
    | endMark => exact absurd rfl (hcs _ List.mem_cons_self)
    | literal p legal =>
      rw [ser_literal_length]
      rw [List.countP_cons_of_pos rfl, List.countP_cons_of_neg (by simp [Chunk.isLiteral]), List.filter_cons_of_pos rfl,
        List.map_cons, List.sum_cons, Chunk.size]
      omega
    | rep b k legal =>
      rw [ser_rep_length]
      rw [List.countP_cons_of_neg (by simp [Chunk.isLiteral]), List.countP_cons_of_pos rfl,
        List.filter_cons_of_neg (by simp [Chunk.isLiteral])]
      omega

end Sys2Proof.Machine
end

section
/-! The deserializer as the decoder taken a byte at a time (45_chunk_deserializer.md rules R135 to R144): what each byte does, and that
the bytes of an instruction run exactly it. -/

namespace Sys2Proof.Machine

/-! ## The registers after a byte, by phase and class -/

section
variable {d : Des} {x : Byte}

theorem desTag1_of_endMark (h : classifyTag (tagOfBytes (tagLow d.tag) x) = .endMark) :
    desTag1 d x = ({ d with tag := tagOfBytes (tagLow d.tag) x, phase := .tag0 }, some .endFrame) := by
  simp only [desTag1, h]

theorem desTag1_of_literal {n : Nat} (h : classifyTag (tagOfBytes (tagLow d.tag) x) = .literal n) :
    desTag1 d x = ({ d with tag := tagOfBytes (tagLow d.tag) x, phase := .lit, cnt := 0 }, none) := by
  simp only [desTag1, h]

theorem desTag1_of_rep {k : Nat} (h : classifyTag (tagOfBytes (tagLow d.tag) x) = .rep k) :
    desTag1 d x = ({ d with tag := tagOfBytes (tagLow d.tag) x, phase := .rep }, none) := by
  simp only [desTag1, h]

theorem desAccept_of_lit (h : d.phase = .lit) : desAccept d x = desLit d x := by
  simp only [desAccept, h]

theorem desAccept_of_rep (h : d.phase = .rep) : desAccept d x = desRep d x := by
  simp only [desAccept, h]

theorem desLit_of_more (h : d.cnt + 1 ≠ desLiteralLength d) :
    desLit d x = ({ d with lbuf := d.lbuf.setIfInBounds d.cnt x, cnt := d.cnt + 1 }, none) := by
  simp only [desLit, if_neg h]

theorem desLit_of_last (h : d.cnt + 1 = desLiteralLength d) :
    desLit d x =
      ({ d with lbuf := d.lbuf.setIfInBounds d.cnt x, phase := .tag0, cnt := 0 },
        literalInstr ((d.lbuf.setIfInBounds d.cnt x).toList.take (d.cnt + 1))) := by
  simp only [desLit, if_pos h]

/-- A literal's tag is its length, and five bits hold it (rule R138). -/
theorem desLiteralLength_of_literal {n : Nat} (h : classifyTag d.tag = .literal n) : desLiteralLength d = n := by
  obtain ⟨hn, -, h16⟩ := toNat_of_classify_literal h
  simp only [desLiteralLength, BitVec.extractLsb'_toNat, Nat.shiftRight_zero, hn]
  omega

/-- The run of a repeat's tag gives its count (rule R139). -/
theorem runOfTag_of_classify_rep {tag : TagWord} {k : Nat} (h : classifyTag tag = .rep k) : (1 - runOfTag tag).toNat = k := by
  obtain ⟨hn, -, h255⟩ := toNat_of_classify_rep h
  rw [runOfTag_of_rep (by omega)]
  omega

/-- A payload byte goes behind those taken before it. -/
theorem take_setIfInBounds_succ {lbuf : Vector Byte 16} {n : Nat} (h : n < 16) :
    (lbuf.setIfInBounds n x).toList.take (n + 1) = lbuf.toList.take n ++ [x] := by
  rw [Vector.toList_setIfInBounds, List.take_add_one]
  simp [List.take_set_of_le, h]

end

/-! ## Consistent registers, by phase -/

section
variable {d : Des}

theorem DesOk.of_tag0 (hp : d.phase = .tag0) (hc : d.cnt = 0) : DesOk .none d := by
  constructor <;> simp [hp, hc]

theorem DesOk.of_tag1 (hp : d.phase = .tag1) (hc : d.cnt = 0) : DesOk .none d := by
  constructor <;> simp [hp, hc]

theorem DesOk.of_rep {k : Nat} (hp : d.phase = .rep) (hc : d.cnt = 0) (hk : classifyTag d.tag = .rep k) : DesOk .none d := by
  constructor <;> simp [hp, hc, hk]

theorem DesOk.of_lit {n : Nat} (hp : d.phase = .lit) (hn : classifyTag d.tag = .literal n) (hc : d.cnt < n) :
    DesOk .none d := by
  constructor <;> simp [hp, hn, hc]

end

/-! ## What a byte does -/

/-- The byte `x` completes no instruction: it joins the bytes accepted (rules R136 to R138). -/
structure Des.Continues (d : Des) (x : Byte) (d' : Des) : Prop where
  accept : desAccept d x = (d', none)
  ok : DesOk .none d'
  accepted : d'.accepted = d.accepted ++ [x]

/-- The byte `x` completes the instruction `i`: the bytes accepted and `x` are its form (rules R137 to R141). -/
structure Des.Completes (d : Des) (x : Byte) (d' : Des) (i : Instr) : Prop where
  accept : desAccept d x = (d', some i)
  wf : i.wf = true
  form : encode i = d.accepted ++ [x]
  cnt : d'.cnt = 0
  phase : d'.phase = if chunkOf i = none then .tag1 else .tag0
  reserved : chunkOf i = none → classifyTag d'.tag = .reserved

section
variable {d : Des}

theorem continues_of_tag0 (hok : DesOk .none d) (hp : d.phase = .tag0) (x : Byte) : ∃ d', d.Continues x d' :=
  ⟨_, desAccept_of_tag0 hp, .of_tag1 rfl (hok.cnt_zero (by simp [hp])), by simp [Des.accepted, hp]⟩

theorem cases_of_tag1 (hok : DesOk .none d) (hp : d.phase = .tag1) (x : Byte) :
    (∃ d', d.Continues x d') ∨ ∃ d' i, d.Completes x d' i := by
  have hcnt : d.cnt = 0 := hok.cnt_zero (by simp [hp])
  have hacc : d.accepted ++ [x] = wireTag (tagOfBytes (tagLow d.tag) x) := by simp [Des.accepted, hp, wireTag]
  have haccept := desAccept_of_tag1 (x := x) hp
  cases hcls : classifyTag (tagOfBytes (tagLow d.tag) x) with
  | endMark =>
    exact .inr ⟨_, _, haccept.trans (desTag1_of_endMark hcls), rfl, by rw [hacc, ← wireEnd_eq_wireTag hcls]; rfl, hcnt, rfl,
      nofun⟩
  | literal n =>
    obtain ⟨-, h1, -⟩ := toNat_of_classify_literal hcls
    exact .inl ⟨_, haccept.trans (desTag1_of_literal hcls), .of_lit rfl hcls h1, by rw [hacc]; simp [Des.accepted]⟩
  | rep k =>
    exact .inl ⟨_, haccept.trans (desTag1_of_rep hcls), .of_rep rfl hcnt hcls, by rw [hacc]; simp [Des.accepted]⟩
  | reserved =>
    obtain ⟨hchunk, hwf, henc⟩ := reservedInstr_row hcls
    exact .inr ⟨_, _, haccept.trans (desTag1_of_reserved hcls), hwf, henc.trans hacc.symm, hcnt, by rw [if_pos hchunk]; exact hp,
      fun _ => hcls⟩

theorem cases_of_lit (hok : DesOk .none d) (hp : d.phase = .lit) (x : Byte) :
    (∃ d', d.Continues x d') ∨ ∃ d' i, d.Completes x d' i := by
  obtain ⟨n, hcls, hlt⟩ := hok.lit_tag hp
  obtain ⟨-, -, h16⟩ := toNat_of_classify_literal hcls
  have hlen := desLiteralLength_of_literal hcls
  have hacc : d.accepted ++ [x] = wireTag d.tag ++ (d.lbuf.setIfInBounds d.cnt x).toList.take (d.cnt + 1) := by
    rw [take_setIfInBounds_succ (by omega)]
    simp [Des.accepted, hp]
  have haccept := desAccept_of_lit (x := x) hp
  by_cases hlast : d.cnt + 1 = n
  · have hsize : ((d.lbuf.setIfInBounds d.cnt x).toList.take (d.cnt + 1)).length = n := by simp; omega
    obtain ⟨i, _, hrow, hchunk, hwf, henc⟩ := literalInstr_row (by omega) (hsize.trans_le h16)
    refine .inr ⟨_, i, haccept.trans ((desLit_of_last (by omega)).trans (by rw [hrow])), hwf, ?_, rfl, by simp [hchunk],
      by simp [hchunk]⟩
    rw [henc, hacc, wireLiteral_eq_wireTag (by rwa [hsize])]
  · refine .inl ⟨_, haccept.trans (desLit_of_more (by omega)), .of_lit hp hcls (by simp only; omega), ?_⟩
    rw [hacc]
    simp [Des.accepted, hp]

theorem completes_of_rep (hok : DesOk .none d) (hp : d.phase = .rep) (x : Byte) : ∃ d' i, d.Completes x d' i := by
  obtain ⟨k, hcls⟩ := hok.rep_tag hp
  obtain ⟨-, h2, h255⟩ := toNat_of_classify_rep hcls
  obtain ⟨i, _, hrow, hchunk, hwf, henc⟩ := repeatInstr_row x h2 h255
  have haccept : desAccept d x = ({ d with phase := .tag0 }, some i) := by
    rw [desAccept_of_rep hp, desRep, runOfTag_of_classify_rep hcls, hrow]
  refine ⟨_, i, haccept, hwf, ?_, hok.cnt_zero (by simp [hp]), by simp [hchunk], by simp [hchunk]⟩
  rw [henc, wireRepeat_eq_wireTag hcls]
  simp [Des.accepted, hp]

/-- A byte continues a chunk or completes one, in every phase. -/
theorem desAccept_cases (hok : DesOk .none d) (x : Byte) : (∃ d', d.Continues x d') ∨ ∃ d' i, d.Completes x d' i := by
  cases hp : d.phase with
  | tag0 => exact .inl (continues_of_tag0 hok hp x)
  | tag1 => exact cases_of_tag1 hok hp x
  | lit => exact cases_of_lit hok hp x
  | rep => exact .inr (completes_of_rep hok hp x)

/-- The bytes accepted of a chunk under way are not yet an instruction. -/
theorem decode_accepted (hok : DesOk .none d) (i : Instr) (rest : List Byte) : decode d.accepted ≠ .instr i rest := by
  cases hp : d.phase with
  | tag0 => simp [Des.accepted, hp, decode]
  | tag1 => simp [Des.accepted, hp, decode]
  | lit =>
    obtain ⟨n, hcls, hlt⟩ := hok.lit_tag hp
    have hshort : (d.lbuf.toList.take d.cnt).length < n := (List.length_take_le _ _).trans_lt hlt
    simp [Des.accepted, hp, decode, wireTag, hcls, hlt]
  | rep =>
    obtain ⟨k, hcls⟩ := hok.rep_tag hp
    simp [Des.accepted, hp, decode, wireTag, hcls]

end

/-! ## The bytes of an instruction -/

/-- Forms of well-formed instructions are never one the beginning of another. -/
theorem encode_append_inj {i j : Instr} {bs cs : List Byte} (hi : i.wf = true) (hj : j.wf = true)
    (h : encode i ++ bs = encode j ++ cs) : i = j ∧ bs = cs := by
  have hdec := decodeGivesBackEncoded i bs hi
  rw [h, decodeGivesBackEncoded j cs hj] at hdec
  cases hdec
  exact ⟨rfl, rfl⟩

section
variable {d : Des} {x : Byte} {i : Instr}

/-- The last byte of an instruction completes it. -/
theorem completes_of_last (hok : DesOk .none d) (hw : i.wf = true) (h : encode i = d.accepted ++ [x]) :
    ∃ d', d.Completes x d' i := by
  obtain ⟨d', hd⟩ | ⟨d', j, hd⟩ := desAccept_cases hok x
  · have hdec := decodeGivesBackEncoded i [] hw
    rw [List.append_nil, h, ← hd.accepted] at hdec
    exact absurd hdec (decode_accepted hd.ok i [])
  · obtain ⟨rfl, -⟩ := encode_append_inj (bs := []) (cs := []) hw hd.wf (by rw [h, hd.form])
    exact ⟨d', hd⟩

/-- A byte of an instruction that is not its last continues it. -/
theorem continues_of_more {xs : List Byte} (hok : DesOk .none d) (hw : i.wf = true) (hxs : xs ≠ [])
    (h : encode i = d.accepted ++ x :: xs) : ∃ d', d.Continues x d' := by
  refine (desAccept_cases hok x).resolve_right fun ⟨d', j, hd⟩ => hxs ?_
  obtain ⟨-, hnil⟩ := encode_append_inj (bs := []) (cs := xs) hw hd.wf (by simp [h, hd.form])
  exact hnil.symm

/-- The bytes of an instruction before its last are accepted one after the other. -/
theorem desAcceptAll_front (hw : i.wf = true) : ∀ (front : List Byte) (d : Des), DesOk .none d →
    encode i = d.accepted ++ (front ++ [x]) →
    DesOk .none (desAcceptAll d front) ∧ encode i = (desAcceptAll d front).accepted ++ [x]
  | [], _, hok, h => ⟨hok, h⟩
  | y :: ys, d, hok, h => by
    obtain ⟨d', hd⟩ := continues_of_more hok hw (by simp) h
    have hnext : desAcceptAll d (y :: ys) = desAcceptAll d' ys := by rw [desAcceptAll, List.foldl_cons, hd.accept]; rfl
    rw [hnext]
    exact desAcceptAll_front hw ys d' hd.ok (by rw [h, hd.accepted]; simp)

end

/-! ## Turns of DEC over the bytes of an instruction -/

theorem step_decTurn {s : State} {ms : List Move} (h : s.schedule = .decTurn :: ms) :
    step s = decTurn (s.setSchedule ms) := step_scheduled h

/-- What is left of an instruction's bytes, delivered one a step, runs it at the last. -/
theorem run_rest_of_instr {i : Instr} (hw : i.wf = true) (rest : List Byte) (ms : List Move) :
    ∀ (bs : List Byte) (s : State), bs ≠ [] → DesOk .none s.dec.des → encode i = s.dec.des.accepted ++ bs →
      s.dec.fault = .none → s.chan.rxValid = true → s.chan.bytes = bs ++ rest →
      s.schedule = List.replicate bs.length .decTurn ++ ms →
      ∃ d : Des, d.cnt = 0 ∧ d.phase = (if chunkOf i = none then .tag1 else .tag0) ∧
        Host.Core.run Sys2Proof.core bs.length s =
          exec i { s with schedule := ms, chan := { s.chan with bytes := rest }, dec := { s.dec with des := d } } := by
  intro bs
  induction bs with
  | nil => exact fun _ hne => absurd rfl hne
  | cons x xs ih =>
    intro s _ hok henc hf hv hb hs
    have hstep : step s = decTurn (s.setSchedule (List.replicate xs.length .decTurn ++ ms)) := step_decTurn hs
    have ho : (s.setSchedule (List.replicate xs.length .decTurn ++ ms)).Offers x (xs ++ rest) := ⟨hb, hv, hf⟩
    by_cases hxs : xs = []
    · subst hxs
      obtain ⟨d, hd⟩ := completes_of_last hok hw henc
      refine ⟨d, hd.cnt, hd.phase, ?_⟩
      rw [List.length_singleton, run_one, hstep, decTurn_of_accept_some ho hd.accept]
      rfl
    · obtain ⟨d, hd⟩ := continues_of_more hok hw hxs henc
      rw [decTurn_of_accept_none ho hd.accept] at hstep
      have hleft : encode i = d.accepted ++ xs := by rw [henc, hd.accepted, List.append_assoc]; rfl
      obtain ⟨d', hcnt, hphase, hrun⟩ :=
        ih (((s.setSchedule (List.replicate xs.length .decTurn ++ ms)).setBytes (xs ++ rest)).setDes d) hxs hd.ok hleft hf hv
          rfl rfl
      refine ⟨d', hcnt, hphase, ?_⟩
      rw [List.length_cons, run_succ_of_next _ hstep]
      exact hrun

theorem encode_ne_nil {i : Instr} (hw : i.wf = true) : encode i ≠ [] := fun h => by
  have hdec := decodeGivesBackEncoded i [] hw
  rw [h] at hdec
  cases hdec

/-- Settles O20: from phase `TAG0` all of the instruction's bytes are left. -/
theorem bytesOfInstrRunIt : Obligations.BytesOfInstrRunIt := by
  unfold Obligations.BytesOfInstrRunIt
  intro s i rest ms hw hp hc hf hv hb hs
  exact run_rest_of_instr hw rest ms (encode i) s (encode_ne_nil hw) (.of_tag0 hp hc) (by simp [Des.accepted, hp]) hf hv hb hs

/-! ## The placed word -/

/-- The first two bytes of an instruction tell how many it has (rule R68). -/
theorem wireLength_encode_append {i : Instr} (hw : i.wf = true) (rest : List Byte) :
    wireLength (encode i ++ rest) = (encode i).length := by
  obtain rfl | ⟨p, h1, h16, hrow⟩ | ⟨k, b, h2, h255, hrow⟩ | ⟨tag, hres, rfl⟩ := row_of_wf hw
  · rfl
  · rw [encode_literalInstr h1 h16 hrow, Laws.TagTellsLength.literal_length ⟨h1, h16⟩]
    rfl
  · rw [encode_repeatInstr h2 h255 hrow, Laws.TagTellsLength.repeat_length b ⟨h2, h255⟩]
    rfl
  · rw [(reservedInstr_row hres).2.2]
    simp [wireTag, wireLength, hres, TagClass.payloadLength]

theorem tableWord_bytes {nbits w : Nat} {i : Instr} (h : decodeTableWord nbits w = some i) :
    i.wf = true ∧ ∃ rest, tableBytes nbits w = encode i ++ rest := by
  unfold decodeTableWord at h
  cases hdec : decode (tableBytes nbits w) with
  | rejected why => simp [hdec] at h
  | instr j rest =>
    simp only [hdec, Option.some.injEq] at h
    subst h
    obtain ⟨hwf, hbytes⟩ := decodedIsWellFormedAndReencodes _ _ _ hdec
    exact ⟨hwf, rest, hbytes.symm⟩

/-- Settles O21: the placing feeds the deserializer all the instruction's bytes but the last, which the step then takes. -/
theorem placedWordRunsNext : Obligations.PlacedWordRunsNext := by
  unfold Obligations.PlacedWordRunsNext
  intro s nbits w i hdec
  obtain ⟨hw, rest, hbytes⟩ := tableWord_bytes hdec
  obtain ⟨front, x, henc⟩ := List.eq_nil_or_concat (encode i) |>.resolve_left (encode_ne_nil hw)
  rw [List.concat_eq_append] at henc
  have hfront := desAcceptAll_front hw front { s.dec.des with phase := .tag0, cnt := 0 } (.of_tag0 rfl rfl) henc
  obtain ⟨d, hd⟩ := completes_of_last hfront.1 hw hfront.2
  have hplace : s.withFetchWord nbits w =
      { s with
        schedule := .decTurn :: s.schedule
        chan := { s.chan with bytes := x :: s.chan.bytes, rxValid := true }
        dec := { s.dec with fault := .none, des := desBeforeLast s.dec.des front } } := by
    rw [State.withFetchWord, placeInstr, hbytes, wireLength_encode_append hw, henc]
    simp only [List.length_append, List.length_singleton, Nat.add_sub_cancel, List.append_assoc, List.take_left,
      List.take_length_add_append, List.drop_left]
    rfl
  refine ⟨d, ?_⟩
  rw [hplace, step_decTurn rfl]
  exact decTurn_of_accept_some (rest := s.chan.bytes) ⟨rfl, rfl, rfl⟩ hd.accept

/-! ## Single bytes (section 2 of 45_chunk_deserializer.md) -/

theorem classifyTag_of_run_other {tag : TagWord} (h0 : runOfTag tag ≠ 0) (h1 : ¬(1 ≤ runOfTag tag ∧ runOfTag tag ≤ 16))
    (h2 : ¬(-254 ≤ runOfTag tag ∧ runOfTag tag ≤ -1)) : classifyTag tag = .reserved := by
  rw [classifyTag]
  exact (if_neg h0).trans ((if_neg h1).trans (if_neg h2))

/-- Settles O15: the run fixes the tag's class, and the class what the byte does. -/
theorem highTagByteDecides : Obligations.HighTagByteDecides := by
  unfold Obligations.HighTagByteDecides
  intro s x rest ho hp
  refine ⟨tagOfBytes (tagLow s.dec.des.tag) x, tagLow_tagOfBytes _ _, tagHigh_tagOfBytes _ _, ?_⟩
  generalize htag : tagOfBytes (tagLow s.dec.des.tag) x = tag
  have haccept := desAccept_of_tag1 (x := x) hp
  split_ifs with h0 h1 h2
  · subst htag
    exact decTurn_of_accept_some ho (haccept.trans (desTag1_of_endMark (classifyTag_of_run_zero h0)))
  · have hcls := classifyTag_of_run_literal (tag := tag) (n := (runOfTag tag).toNat) (by omega) (by omega) (by omega)
    subst htag
    exact decTurn_of_accept_none ho (haccept.trans (desTag1_of_literal hcls))
  · have hcls := classifyTag_of_run_rep (tag := tag) (count := (1 - runOfTag tag).toNat) (by omega) (by omega) (by omega)
    subst htag
    exact decTurn_of_accept_none ho (haccept.trans (desTag1_of_rep hcls))
  · subst htag
    exact decTurn_of_reserved ho hp (classifyTag_of_run_other h0 h1 h2)

/-- Settles O16: the count decides whether the byte is the last, and the entries then taken are a legal literal. -/
theorem literalPayloadByteAccepted : Obligations.LiteralPayloadByteAccepted := by
  unfold Obligations.LiteralPayloadByteAccepted
  intro s x rest n ho hp hn h1 h16 hlt
  have hlen : desLiteralLength s.dec.des = n := hn.symm
  have haccept := desAccept_of_lit (x := x) hp
  refine ⟨s.dec.des.lbuf.setIfInBounds s.dec.des.cnt x, fun k => ?_, fun hmore => ?_, fun hlast => ?_⟩
  · simp [Vector.getElem_setIfInBounds, eq_comm]
  · exact decTurn_of_accept_none ho (haccept.trans (desLit_of_more (by omega)))
  · have hsize : ((s.dec.des.lbuf.setIfInBounds s.dec.des.cnt x).toList.take n).length = n := by simp; omega
    obtain ⟨i, legal, hrow, hchunk, -⟩ := literalInstr_row (h1.trans_eq hsize.symm) (hsize.trans_le h16)
    refine ⟨i, legal, hchunk, decTurn_of_accept_some ho (haccept.trans ?_)⟩
    rw [desLit_of_last (by omega), hlast, hrow]

/-- Settles O17: the tag is `65537 - k`, so its low byte is `257 - k`. -/
theorem repeatByteAccepted : Obligations.RepeatByteAccepted := by
  unfold Obligations.RepeatByteAccepted
  intro s x rest ho hp h1 h2
  have hcls := classifyTag_of_run_rep (tag := s.dec.des.tag) (count := (1 - runOfTag s.dec.des.tag).toNat) (by omega) (by omega)
    (by omega)
  obtain ⟨htag, hk2, hk255⟩ := toNat_of_classify_rep hcls
  obtain ⟨i, legal, hrow, hchunk, -⟩ := repeatInstr_row x hk2 hk255
  refine ⟨i, _, legal, hchunk, by omega, by rw [tagLow_toNat, htag]; omega, hk2, hk255, decTurn_of_accept_some ho ?_⟩
  rw [desAccept_of_rep hp, desRep, hrow]

/-! ## Instructions and faults -/

/-- Settles O12: the row's meaning is `MALFORMED_TAG`, which sets the fault register alone. -/
theorem reservedTagTakesFault : Obligations.ReservedTagTakesFault := by
  unfold Obligations.ReservedTagTakesFault
  intro i s hw hchunk hf
  exact ⟨by rw [exec_of_reserved hw hchunk, malformedTag_of_none hf]; rfl, rfl⟩

/-- Settles O13: every operation of the receiving half runs behind the same check of `DEC_FAULT`. -/
theorem faultedReceiverAcceptsNothing : Obligations.FaultedReceiverAcceptsNothing := by
  unfold Obligations.FaultedReceiverAcceptsNothing
  intro s hf
  have hready : rxReady s = false := by simp [rxReady, hf]
  refine ⟨fun i hw => ?_, fun c => accepting_of_fault hf, decTurn_of_not_canTake (by simp [decCanTake, hready]), hready⟩
  cases hchunk : chunkOf i with
  | none => rw [exec_of_reserved hw hchunk, malformedTag, accepting_of_fault hf]
  | some c => rw [exec_of_chunk hchunk, deliver, accepting_of_fault hf]

theorem canTake_of_offers {s : State} {x : Byte} {rest : List Byte} (h : s.Offers x rest) : decCanTake s = true := by
  simp [decCanTake, rxReady, h.bytes, h.valid, h.no_fault]

/-- Settles O19: the move is DEC's, scheduled or by itself. -/
theorem stepRunsCompletedInstr : Obligations.StepRunsCompletedInstr := by
  unfold Obligations.StepRunsCompletedInstr
  intro s x rest d i ho hacc
  refine ⟨fun ms hs => ?_, fun hs => ?_⟩
  · rw [step_scheduled hs]
    exact decTurn_of_accept_some (s := s.setSchedule ms) ⟨ho.bytes, ho.valid, ho.no_fault⟩ hacc
  · rw [step_unscheduled hs, autoMove, if_pos (canTake_of_offers ho)]
    exact decTurn_of_accept_some ho hacc

end Sys2Proof.Machine
end

section
/-! What a chunk does depends on the receiving half alone (00_scope.md rules R3, R9), and the wire delivers chunks like the
chunk-level interface (70_reset_and_hazards.md rule R195). -/

namespace Sys2Proof.Machine

/-! ## The receiving half of one state in the surroundings of another -/

/-- The receiving half of `s`, but for the deserializer, with everything else as in `o`. -/
def State.over (s o : State) : State := { o with params := s.params, dec := { s.dec with des := o.dec.des } }

/-- The events a chunk raises: `frame_done`, where `End` meets a full frame (rule R114). -/
def frameEvents (c : Chunk) (s : State) : List PortEvent :=
  if s.dec.fault = .none ∧ c = .endMark ∧ s.dec.cursor = s.params.decL then [.frameDone] else []

theorem xddBytes_over (o : State) (ds : List Byte) : ∀ (s : State) (p : Nat),
    xddBytes (s.over o) p ds = (xddBytes s p ds).over o := by
  induction ds with
  | nil => exact fun _ _ => rfl
  | cons d ds ih => exact fun s p => ih (xddByte s p d) (p + 1)

theorem copyDstToRxb_over (s o : State) (n : Nat) : copyDstToRxb n (s.over o) = (copyDstToRxb n s).over o := by
  induction n with
  | zero => rfl
  | succ n ih =>
    rw [copyDstToRxb, ih]
    rfl

/-- Delta bytes at the cursor read and write the receiving half alone. -/
theorem rldBytes_over (s o : State) (ds : List Byte) : rldBytes ds (s.over o) = (rldBytes ds s).over o := by
  by_cases h : s.dec.cursor + ds.length ≤ s.params.decL
  · rw [rldBytes_of_fits h, rldBytes_of_fits (s := s.over o) h, xddBytes_over]
    rfl
  · have hover : s.params.decL < s.dec.cursor + ds.length := by omega
    rw [rldBytes_of_overrun hover, rldBytes_of_overrun (s := s.over o) hover]
    rfl

theorem commitFrame_over (s o : State) :
    commitFrame (s.over o) = (commitFrame s).over { o with events := o.events ++ [.frameDone] } := by
  have hcopy : blrRxCommit (s.over o) = (blrRxCommit s).over o := copyDstToRxb_over s o s.params.decL
  rw [commitFrame, hcopy]
  rfl

/-- A chunk reads and writes the receiving half alone, but for the events it raises (rule R110). -/
theorem deliver_over (c : Chunk) (s o : State) :
    deliver c (s.over o) = (deliver c s).over { o with events := o.events ++ frameEvents c s } := by
  by_cases hf : s.dec.fault = .none
  · by_cases hc : c = .endMark
    · subst hc
      by_cases hfull : s.dec.cursor = s.params.decL
      · rw [deliver_endMark_of_full hf hfull, deliver_endMark_of_full (s := s.over o) hf hfull, commitFrame_over, frameEvents,
          if_pos ⟨hf, rfl, hfull⟩]
      · rw [deliver_endMark_of_short hf hfull, deliver_endMark_of_short (s := s.over o) hf hfull, frameEvents,
          if_neg (fun h => hfull h.2.2), List.append_nil]
        rfl
    · rw [deliver_of_no_fault c hf, deliver_of_no_fault (s := s.over o) c hf, rld_payload hc, rld_payload hc, rldBytes_over,
        frameEvents, if_neg (fun h => hc h.2.1), List.append_nil]
  · rw [deliver, deliver, accepting_of_fault hf, accepting_of_fault (s := s.over o) hf, frameEvents,
      if_neg (fun h => hf h.1), List.append_nil]

/-! ## What a chunk leaves alone -/

section
variable (c : Chunk) (s : State)

@[simp] theorem deliver_params : (deliver c s).params = s.params := by
  by_cases hf : s.dec.fault = .none
  · rw [deliver_of_no_fault c hf]
    exact (rld_outside c s).1.params
  · rw [deliver, accepting_of_fault hf]

/-- A chunk changes the receiving half and the events, and nothing else (rule R41). -/
theorem deliver_eq_over : deliver c s = (deliver c s).over { s with events := s.events ++ frameEvents c s } :=
  deliver_over c s s

@[simp] theorem deliver_frame : (deliver c s).frame = s.frame := by rw [deliver_eq_over]; rfl
@[simp] theorem deliver_enc : (deliver c s).enc = s.enc := by rw [deliver_eq_over]; rfl
@[simp] theorem deliver_chan : (deliver c s).chan = s.chan := by rw [deliver_eq_over]; rfl
@[simp] theorem deliver_starts : (deliver c s).starts = s.starts := by rw [deliver_eq_over]; rfl
@[simp] theorem deliver_schedule : (deliver c s).schedule = s.schedule := by rw [deliver_eq_over]; rfl
@[simp] theorem deliver_des : (deliver c s).dec.des = s.dec.des := by rw [deliver_eq_over]; rfl
theorem deliver_events : (deliver c s).events = s.events ++ frameEvents c s := by rw [deliver_eq_over]; rfl

end

theorem deliver_of_fault {s : State} (c : Chunk) (h : s.dec.fault ≠ .none) : deliver c s = s := accepting_of_fault h

theorem deliverAll_cons (c : Chunk) (cs : List Chunk) (s : State) : deliverAll (c :: cs) s = deliverAll cs (deliver c s) := rfl

/-- While a fault is held no chunk is taken (rule R168). -/
theorem deliverAll_of_fault {s : State} (h : s.dec.fault ≠ .none) (cs : List Chunk) : deliverAll cs s = s := by
  induction cs with
  | nil => rfl
  | cons c cs ih => rw [deliverAll_cons, deliver_of_fault c h, ih]

/-! ## Other wires: the schedule, the channel and the deserializer -/

/-- The same state with another schedule, another channel and another deserializer. -/
def State.rewire (s : State) (ms : List Move) (ch : Chan) (d : Des) : State :=
  { s with schedule := ms, chan := ch, dec := { s.dec with des := d } }

section
variable (s : State) (ms : List Move) (ch : Chan) (d : Des)

theorem deliver_rewire (c : Chunk) : deliver c (s.rewire ms ch d) = (deliver c s).rewire ms ch d := by
  have hs : s.rewire ms ch d = s.over (s.rewire ms ch d) := rfl
  rw [hs, deliver_over, deliver_eq_over c s]
  rfl

theorem deliverAll_rewire (cs : List Chunk) : deliverAll cs (s.rewire ms ch d) = (deliverAll cs s).rewire ms ch d := by
  induction cs generalizing s with
  | nil => rfl
  | cons c cs ih => rw [deliverAll_cons, deliver_rewire, ih, deliverAll_cons]

end

/-! ## Chunks over the wire -/

/-- A form on the wire is an instruction's, which does what the chunk does: `Repeat(b, 1)` and `Literal([b])` do the same
(rules R129, R140). -/
theorem ser_eq_encode (c : Chunk) : ∃ i, i.wf = true ∧ encode i = ser c ∧ chunkOf i ≠ none ∧
    ∀ s, exec i s = .next (deliver c s) := by
  obtain ⟨i, hdec, hchunk⟩ := decode_ser c []
  obtain ⟨hwf, henc⟩ := decodedIsWellFormedAndReencodes _ _ _ hdec
  refine ⟨i, hwf, by simpa using henc, by simp [hchunk], fun s => ?_⟩
  rw [exec_of_chunk hchunk]
  obtain h | ⟨b, legal, legal', rfl, h⟩ := onWire_cases c
  · rw [h]
  · rw [h]
    rfl

/-- The bytes of one chunk, delivered one a step. -/
theorem run_chunk (c : Chunk) (s : State) (rest : List Byte) (ms : List Move) (hp : s.dec.des.phase = .tag0)
    (hc : s.dec.des.cnt = 0) (hf : s.dec.fault = .none) (hv : s.chan.rxValid = true) (hb : s.chan.bytes = ser c ++ rest)
    (hs : s.schedule = List.replicate (ser c).length .decTurn ++ ms) :
    ∃ d : Des, d.phase = .tag0 ∧ d.cnt = 0 ∧
      Host.Core.run Sys2Proof.core (ser c).length s = .next ((deliver c s).rewire ms { s.chan with bytes := rest } d) := by
  obtain ⟨i, hwf, henc, hchunk, hexec⟩ := ser_eq_encode c
  obtain ⟨d, hcnt, hphase, hrun⟩ := bytesOfInstrRunIt s i rest ms hwf hp hc hf hv (by rw [henc, hb]) (by rw [henc, hs])
  refine ⟨d, by rw [hphase, if_neg hchunk], hcnt, ?_⟩
  rw [← henc, hrun, hexec, ← deliver_rewire]
  rfl

/-- Turns of DEC while a fault is held change nothing (rule R168). -/
theorem run_decTurns_of_fault (ms : List Move) : ∀ (n : Nat) (s : State), s.dec.fault ≠ .none →
    s.schedule = List.replicate n .decTurn ++ ms → Host.Core.run Sys2Proof.core n s = .next (s.setSchedule ms) := by
  intro n
  induction n with
  | zero =>
    intro s _ hs
    rw [run_zero, State.setSchedule, ← show s.schedule = ms from hs]
  | succ n ih =>
    intro s hf hs
    have hstep := step_decTurn (s := s) hs
    rw [decTurn_of_not_canTake (by simp [decCanTake, rxReady, hf])] at hstep
    rw [run_succ_of_next _ hstep, ih _ (by exact hf) rfl]
    rfl

/-- Settles O42: chunk by chunk, each a run of its bytes; a fault stops the bytes behind its chunk. -/
theorem wireDeliversLikeChunks : Obligations.WireDeliversLikeChunks := by
  unfold Obligations.WireDeliversLikeChunks
  intro s cs rest ms hp hc hf hv hb hs
  induction cs generalizing s with
  | nil =>
    refine ⟨s.dec.des, rest, hp, hc, ?_, fun _ => rfl, fun hne => absurd hf hne⟩
    have hb' : rest = s.chan.bytes := hb.symm
    have hs' : ms = s.schedule := hs.symm
    rw [hb', hs']
    rfl
  | cons c cs ih =>
    rw [serAll_cons, List.append_assoc] at hb
    rw [serAll_cons, List.length_append, List.replicate_add, List.append_assoc] at hs
    obtain ⟨d, hp', hc', hrun⟩ := run_chunk c s _ _ hp hc hf hv hb hs
    rw [serAll_cons, List.length_append, run_add_of_next _ _ hrun, deliverAll_cons]
    by_cases hf' : (deliver c s).dec.fault = .none
    · obtain ⟨d', bytes, hp'', hc'', hrun', hnone, hsome⟩ :=
        ih ((deliver c s).rewire _ { s.chan with bytes := serAll cs ++ rest } d) hp' hc' hf' hv rfl rfl
      rw [deliverAll_rewire] at hrun' hnone hsome
      refine ⟨d', bytes, hp'', hc'', hrun', hnone, fun hne => ?_⟩
      obtain ⟨before, c', behind, rfl, hb1, hb2, hb3⟩ := hsome hne
      rw [deliverAll_rewire] at hb1 hb2
      rw [deliver_rewire] at hb2
      exact ⟨c :: before, c', behind, rfl, hb1, hb2, hb3⟩
    · rw [run_decTurns_of_fault ms _ _ (by exact hf') rfl, deliverAll_of_fault hf']
      exact ⟨d, serAll cs ++ rest, hp', hc', rfl, fun h => absurd h hf', fun _ => ⟨[], c, cs, rfl, hf, rfl, rfl⟩⟩

/-! ## A turn of DEC and the sending half -/

theorem deliver_withSender (c : Chunk) (s : State) (e : Enc) (m : Memory) :
    deliver c { s with enc := e, frame := m } = { deliver c s with enc := e, frame := m } := by
  have hs : { s with enc := e, frame := m } = s.over { s with enc := e, frame := m } := rfl
  rw [hs, deliver_over, deliver_eq_over c s]
  rfl

/-- A turn of DEC answers a next state, and neither reads nor writes the sending half and `FRAME`. -/
theorem decTurn_withSender (s : State) (e : Enc) (m : Memory) :
    ∃ t, decTurn s = .next t ∧ decTurn { s with enc := e, frame := m } = .next { t with enc := e, frame := m } := by
  by_cases hcan : decCanTake s = true
  · obtain ⟨x, rest, ho⟩ := offers_of_canTake hcan
    have ho' : State.Offers { s with enc := e, frame := m } x rest := ⟨ho.bytes, ho.valid, ho.no_fault⟩
    rcases hacc : desAccept s.dec.des x with ⟨d, _ | i⟩
    · exact ⟨_, decTurn_of_accept_none ho hacc, decTurn_of_accept_none ho' hacc⟩
    · rw [decTurn_of_accept_some ho hacc, decTurn_of_accept_some ho' hacc]
      cases hchunk : chunkOf i with
      | none =>
        have hexec := exec_of_reserved (desAccept_wf hacc) hchunk
        rw [hexec, hexec, malformedTag_of_none (s := (s.setBytes rest).setDes d) ho.no_fault,
          malformedTag_of_none (s := (State.setBytes { s with enc := e, frame := m } rest).setDes d) ho.no_fault]
        exact ⟨_, rfl, rfl⟩
      | some c =>
        refine ⟨_, exec_of_chunk hchunk _, ?_⟩
        rw [exec_of_chunk hchunk, ← deliver_withSender]
        rfl
  · have hno : decCanTake s = false := by simpa using hcan
    rw [decTurn_of_not_canTake hno, decTurn_of_not_canTake (s := { s with enc := e, frame := m }) hno]
    exact ⟨s, rfl, rfl⟩

/-- Settles O60: both turns answer next states, alike but for the sending half and `FRAME`. -/
theorem receiverSeesSenderOnlyThroughChannel : Obligations.ReceiverSeesSenderOnlyThroughChannel := by
  unfold Obligations.ReceiverSeesSenderOnlyThroughChannel
  intro s e m
  obtain ⟨t, ht, ht'⟩ := decTurn_withSender s e m
  rw [ht]
  exact ht'

end Sys2Proof.Machine
end

section
/-! The steps of ENC (40_xor_delta_encoder.md rule R80, 41_rle_encoder.md rules R99, R105): a scan step, the two steps of a flush, the
wait for the channel, and that none of them reads the receiving half (00_scope.md rule R3). -/

namespace Sys2Proof.Machine

/-! ## The sending half of one state in the surroundings of another -/

/-- The sending half and `FRAME` of `s`, with everything else as in `o`. -/
def State.under (s o : State) : State := { o with params := s.params, frame := s.frame, enc := s.enc }

theorem encScan_under (s o : State) : encScan (s.under o) = ((encScan s).1.under o, (encScan s).2) := by
  rw [encScan_eq, encScan_eq]
  rfl

/-- The next step of ENC reads and writes the sending half alone (rule R3). -/
theorem encNext_under {s u : State} {c : Option Chunk} (o : State) (h : encNext s = .next (u, c)) :
    encNext (s.under o) = .next (u.under o, c) := by
  obtain ⟨hb, hr⟩ | ⟨hb, hl, hc, hi, hr⟩ | ⟨hb, hl, hc, hi, hr⟩ := encNext_cases h
  · cases hr
    exact encNext_of_not_busy (s := s.under o) hb
  · rw [encNext_of_scan (s := s.under o) hb hl hc hi, encScan_under, ← hr]
  · obtain ⟨rfl, rfl⟩ : u = (encFlush s).1 ∧ c = (encFlush s).2 := Prod.ext_iff.1 hr
    exact encNext_of_flush (s := s.under o) hb hl hc hi

/-- Where ENC stops is decided by the sending half alone. -/
theorem encNext_fault_under {s : State} {f : Fault} (o : State) (h : encNext s = .fault f) : encNext (s.under o) = .fault f := by
  unfold encNext at h ⊢
  by_cases hb : s.enc.busy = false
  · rw [if_pos hb] at h
    cases h
  · rw [if_neg hb] at h
    rw [if_neg (c := (s.under o).enc.busy = false) hb]
    by_cases hcap : Config.litCap ≤ s.enc.llen ∨ Config.repCap ≤ s.enc.cnt
    · rw [if_pos hcap] at h
      rwa [if_pos (c := Config.litCap ≤ (s.under o).enc.llen ∨ Config.repCap ≤ (s.under o).enc.cnt) hcap]
    · rw [if_neg hcap] at h
      rw [if_neg (c := Config.litCap ≤ (s.under o).enc.llen ∨ Config.repCap ≤ (s.under o).enc.cnt) hcap]
      split at h
      · cases h
      · rename_i hlt
        rw [if_neg (c := (s.under o).enc.idx < (s.under o).params.encL) hlt]
        split at h
        · cases h
        · rename_i hne
          rwa [if_neg (c := (s.under o).enc.idx = (s.under o).params.encL) hne]

theorem encNext_ne_refused (s : State) (r : Refusal) : encNext s ≠ .refused r := by
  unfold encNext
  split_ifs <;> nofun

/-- Settles O59: the step up to the sink is the same, and the channel takes its chunk or not by its own level. -/
theorem senderIgnoresReceiver : Obligations.SenderIgnoresReceiver := by
  unfold Obligations.SenderIgnoresReceiver
  intro s d
  let o : State := { s with dec := d }
  have ho : ({ s with dec := d } : State) = s.under o := rfl
  rw [ho]
  cases h : encNext s with
  | next r =>
    obtain ⟨u, c⟩ := r
    have h' := encNext_under o h
    have hu : u.under o = { u with dec := d } := by rw [encNext_writes_enc h]; rfl
    rw [hu] at h'
    cases c with
    | none =>
      rw [encTurn_of_silent h]
      exact encTurn_of_silent h'
    | some c =>
      cases hr : s.chan.txReady with
      | false =>
        rw [encTurn_of_not_ready hr h]
        exact encTurn_of_not_ready (s := s.under o) hr h'
      | true =>
        rw [encTurn_of_ready hr h]
        refine (encTurn_of_ready (s := s.under o) hr h').trans ?_
        cases c <;> rfl
  | fault f =>
    have hs : encTurn s = .fault f := by simp only [encTurn, encTurnInto, h]
    have hd : encTurn (s.under o) = .fault f := by simp only [encTurn, encTurnInto, encNext_fault_under o h]
    rw [hs]
    exact hd
  | refused r => exact absurd h (encNext_ne_refused s r)

/-! ## A scan step -/

/-- `RLE.PUSH` never emits `End`. -/
theorem rlePush_ne_end {w : Byte} {e : Enc} {c : Chunk} (h : (rlePush w e).2 = some c) : c ≠ .endMark := by
  have hlit : ∀ {bs}, Chunk.ofBytes bs = some c → c ≠ .endMark := fun h => by
    obtain ⟨_, rfl⟩ := Chunk.ofBytes_eq_some h
    nofun
  cases hm : e.mode with
  | idle => simp [rlePush_of_idle hm, rleFirst] at h
  | acc =>
    by_cases hw : w = e.prev
    · rw [rlePush_of_acc_eq hm hw] at h
      split at h
      · simp [rleRunAfterCap] at h
      · exact hlit h
    · rw [rlePush_of_acc_ne hm hw] at h
      split at h
      · simp [rleExtend] at h
      · exact hlit h
  | rep =>
    by_cases hw : w = e.prev
    · rw [rlePush_of_rep_eq hm hw, rleRun] at h
      split at h
      · cases h
        nofun
      · cases h
    · rw [rlePush_of_rep_ne hm hw] at h
      obtain ⟨_, rfl⟩ := Chunk.ofRun_eq_some h
      nofun

section
variable {s : State}

/-- Below `L` the next step is `XDE.BYTE` and the push of its delta byte. -/
theorem encNext_scan (hb : s.enc.busy = true) (hok : EncOk s.params.encL s.enc) (hi : s.enc.idx < s.params.encL) :
    encNext s = .next ((xdeByte s).1.setEnc (rlePush (xdeByte s).2 (xdeByte s).1.enc).1,
      (rlePush (xdeByte s).2 (xdeByte s).1.enc).2) :=
  encNext_of_scan hb hok.llen_le hok.cnt_le hi

/-- The registers once `End` has been taken (rule R99). -/
def Enc.flushed (e : Enc) : Enc :=
  { e with llen := 0, cnt := 0, mode := .idle, idx := 0, first := false, busy := false, ending := false }

theorem Enc.flushed_of_not_ending {e : Enc} (h : e.ending = false) :
    e.flushed =
      { e with lbuf := e.flushed.lbuf, llen := 0, cnt := 0, mode := .idle, idx := 0, first := false, busy := false } := by
  simp [Enc.flushed, h]

/-- At `L` the pending item goes first. -/
theorem encNext_pending {c : Chunk} (hb : s.enc.busy = true) (hok : EncOk s.params.encL s.enc)
    (hi : s.enc.idx = s.params.encL) (he : s.enc.ending = false) (hc : flushPending s.enc = some c) :
    encNext s = .next (s.setEnc { s.enc with ending := true }, some c) := by
  rw [encNext_of_flush hb hok.llen_le hok.cnt_le hi, encFlush, rleFlushNext_of_pending he hc]

/-- At `L` with nothing left to send but `End`. -/
theorem encNext_end (hb : s.enc.busy = true) (hok : EncOk s.params.encL s.enc) (hi : s.enc.idx = s.params.encL)
    (he : s.enc.ending = true ∨ flushPending s.enc = none) :
    encNext s = .next (s.setEnc s.enc.flushed, some .endMark) := by
  rw [encNext_of_flush hb hok.llen_le hok.cnt_le hi, encFlush, rleFlushNext_of_end he]
  rfl

/-- At `L` every step emits. -/
theorem encNext_at_end (hb : s.enc.busy = true) (hok : EncOk s.params.encL s.enc) (hi : s.enc.idx = s.params.encL) :
    ∃ u c, encNext s = .next (u, some c) :=
  ⟨_, _, encNext_of_flush hb hok.llen_le hok.cnt_le hi⟩

/-- The registers stay in their ranges while the pending item is sent. -/
theorem EncOk.ending_true {len : Nat} {e : Enc} (hok : EncOk len e) (hb : e.busy = true) (hi : e.idx = len) :
    EncOk len { e with ending := true } :=
  { hok with ending_at_end := fun _ => ⟨hb, hi⟩ }

end

/-- Settles O31: the step is the scan iteration, and its chunk, if any, is no `End`. -/
theorem scanStepSendsWhatPushEmits : Obligations.ScanStepSendsWhatPushEmits := by
  unfold Obligations.ScanStepSendsWhatPushEmits
  intro s hb hok hi hr
  have hnext := encNext_scan hb hok hi
  cases hc : (rlePush (xdeByte s).2 (xdeByte s).1.enc).2 with
  | none =>
    rw [hc] at hnext
    refine ⟨_, encTurn_of_silent hnext, rfl, ?_, rfl, by constructor <;> rfl⟩
    simp only [List.append_nil]
    rfl
  | some c =>
    rw [hc] at hnext
    refine ⟨_, encTurn_of_ready hr hnext, ?_⟩
    rw [chunkTaken_payload (rlePush_ne_end hc)]
    exact ⟨rfl, rfl, rfl, by constructor <;> rfl⟩

/-! ## The flush -/

section
variable {len : Nat} {e : Enc} (hok : EncOk len e)
include hok

theorem flushPending_of_literal (hm : e.mode = .acc) (hl : 1 ≤ e.llen) : ∃ h, flushPending e = some (.literal e.pending h) := by
  have hcap := hok.llen_le
  have hlen : e.pending.length = e.llen := Enc.pending_length (by omega)
  simp only [flushPending, hm]
  have legal : 1 ≤ e.pending.length ∧ e.pending.length ≤ Config.litCap := by rw [hlen, Config.litCap]; omega
  exact ⟨legal, Chunk.ofBytes_legal legal⟩

theorem flushPending_of_run (hm : e.mode = .rep) (hl : 1 ≤ e.cnt) : ∃ h, flushPending e = some (.rep e.prev e.cnt h) := by
  have hcap := hok.cnt_le
  simp only [flushPending, hm]
  have legal : 1 ≤ e.cnt ∧ e.cnt ≤ Config.repCap := by rw [Config.repCap]; omega
  exact ⟨legal, Chunk.ofRun_legal legal⟩

end

/-- Nothing is pending without a literal byte or a run. -/
theorem flushPending_of_nothing {e : Enc} (h1 : ¬(e.mode = .acc ∧ 1 ≤ e.llen)) (h2 : ¬(e.mode = .rep ∧ 1 ≤ e.cnt)) :
    flushPending e = none := by
  unfold flushPending
  split
  · rfl
  · rename_i hm
    rw [Enc.pending_nil (Nat.eq_zero_of_not_pos fun h => h1 ⟨hm, h⟩), Chunk.ofBytes_nil]
  · rename_i hm
    rw [Nat.eq_zero_of_not_pos fun h => h2 ⟨hm, h⟩, Chunk.ofRun_zero]

/-- Settles O32: one step sends the pending item, if there is one, and the next sends `End`. -/
theorem flushEndsFrame : Obligations.FlushEndsFrame := by
  unfold Obligations.FlushEndsFrame
  intro s hb hok hi hr he
  have hlit := fun h : s.enc.mode = .acc ∧ 1 ≤ s.enc.llen => flushPending_of_literal hok h.1 h.2
  have hrun := fun h : s.enc.mode = .rep ∧ 1 ≤ s.enc.cnt => flushPending_of_run hok h.1 h.2
  cases hc : flushPending s.enc with
  | none =>
    rw [hc] at hlit hrun
    refine ⟨none, _, hlit, hrun, fun _ _ => rfl, fun _ => encTurn_of_ready hr (encNext_end hb hok hi (.inr hc)),
      fun h => absurd rfl h, ?_, ?_, rfl, by constructor <;> rfl⟩
    · simp only [Option.toList_none, serAll_nil, List.append_nil]
      rfl
    · exact Enc.flushed_of_not_ending he
  | some c =>
    rw [hc] at hlit hrun
    have hpending := encTurn_of_ready hr (encNext_pending hb hok hi he hc)
    rw [chunkTaken_payload (flushPending_ne_end hc)] at hpending
    have hend := encNext_end (s := sendChunk c (s.setEnc { s.enc with ending := true })) hb (hok.ending_true hb hi) hi (.inl rfl)
    refine ⟨some c, _, hlit, hrun, fun h1 h2 => hc.symm.trans (flushPending_of_nothing h1 h2),
      nofun, fun _ => ⟨_, hpending, encTurn_of_ready hr hend⟩, ?_, ?_, rfl, by constructor <;> rfl⟩
    · simp only [Option.toList_some, serAll_cons, serAll_nil, List.append_nil]
      rfl
    · exact Enc.flushed_of_not_ending he

/-- Settles O33: every step that emits waits while the channel is not ready, the flush's second one too. -/
theorem notReadyChannelHoldsSender : Obligations.NotReadyChannelHoldsSender := by
  unfold Obligations.NotReadyChannelHoldsSender
  intro s hb hok
  refine ⟨fun hr => ⟨fun hi hne => ?_, fun hi => ?_⟩, fun hr hi he c hc => ?_⟩
  · obtain ⟨c, hc⟩ := Option.ne_none_iff_exists'.1 hne
    have hnext := encNext_scan hb hok hi
    rw [hc] at hnext
    exact encTurn_of_not_ready hr hnext
  · obtain ⟨u, c, hnext⟩ := encNext_at_end hb hok hi
    exact encTurn_of_not_ready hr hnext
  · have hpending := encTurn_of_ready hr (encNext_pending hb hok hi he hc)
    rw [chunkTaken_payload (flushPending_ne_end hc)] at hpending
    refine ⟨_, hpending, rfl, ?_⟩
    obtain ⟨u, c', hnext⟩ := encNext_at_end (s := (sendChunk c (s.setEnc { s.enc with ending := true })).setTxReady false) hb
      (hok.ending_true hb hi) hi
    exact encTurn_of_not_ready rfl hnext

end Sys2Proof.Machine
end

section
/-! The run-length encoder over byte sequences (41_rle_encoder.md section 4, rules R100 to R102): every byte pushed is emitted or
pending, and the chunks of uniform, alternating, unchanged and first frames. -/

namespace Sys2Proof.Machine

/-! ## The seven cases of a push -/

/-- Everything `RLE.PUSH` can do (rules R91 to R97). -/
theorem rlePush_cases (w : Byte) (e : Enc) :
    (e.mode = .idle ∧ rlePush w e = rleFirst w e) ∨
    (e.mode = .acc ∧ w ≠ e.prev ∧ e.llen < 15 ∧ rlePush w e = rleExtend w e) ∨
    (e.mode = .acc ∧ w ≠ e.prev ∧ 15 ≤ e.llen ∧ rlePush w e = rleLiteralCap w e) ∨
    (e.mode = .acc ∧ w = e.prev ∧ 0 < e.llen ∧ rlePush w e = rleLiteralToRun w e) ∨
    (e.mode = .acc ∧ w = e.prev ∧ e.llen = 0 ∧ rlePush w e = rleRunAfterCap w e) ∨
    (e.mode = .rep ∧ w = e.prev ∧ rlePush w e = rleRun w e) ∨
    (e.mode = .rep ∧ w ≠ e.prev ∧ rlePush w e = rleRunToLiteral w e) := by
  cases hm : e.mode with
  | idle => exact .inl ⟨rfl, rlePush_of_idle hm⟩
  | acc =>
    by_cases hw : w = e.prev
    · rw [rlePush_of_acc_eq hm hw]
      by_cases hl : e.llen = 0
      · simp [hw, hl]
      · simp [hw, hl, Nat.pos_of_ne_zero hl]
    · rw [rlePush_of_acc_ne hm hw]
      by_cases hl : e.llen < 15
      · simp [hw, hl, Config.litCap, show e.llen + 1 < 16 by omega]
      · simp [hw, hl, Config.litCap, show ¬ e.llen + 1 < 16 by omega, Nat.le_of_not_lt hl]
  | rep =>
    by_cases hw : w = e.prev
    · simp [hw, rlePush_of_rep_eq hm rfl]
    · simp [hw, rlePush_of_rep_ne hm hw]

/-! ## The run-length registers -/

/-- The run-length registers in their ranges: what `EncOk` says of them (rules R32(a) to R32(c)). -/
structure Enc.RunOk (e : Enc) : Prop where
  last_pending : e.mode = .acc → 0 < e.llen → e.lbuf.toList[e.llen - 1]? = some e.prev
  llen_le : e.llen ≤ 15
  cnt_le : e.cnt ≤ 254
  llen_acc : 0 < e.llen → e.mode = .acc
  cnt_rep : 0 < e.cnt → e.mode = .rep

theorem EncOk.runOk {len : Nat} {e : Enc} (h : EncOk len e) : e.RunOk :=
  ⟨h.last_pending, h.llen_le, h.cnt_le, h.llen_acc, h.cnt_rep⟩

theorem runOk_reset : Enc.reset.RunOk := by constructor <;> simp [Enc.reset]

section
variable {e : Enc} (hok : e.RunOk)
include hok

theorem Enc.RunOk.llen_zero (h : e.mode ≠ .acc) : e.llen = 0 := Nat.eq_zero_of_not_pos fun hl => h (hok.llen_acc hl)

theorem Enc.RunOk.cnt_zero (h : e.mode ≠ .rep) : e.cnt = 0 := Nat.eq_zero_of_not_pos fun hc => h (hok.cnt_rep hc)

/-- The last pending byte is `ENC_PREV` (rule R32(a)). -/
theorem Enc.RunOk.pending_eq (hm : e.mode = .acc) (hl : 0 < e.llen) : e.pending = e.pending.dropLast ++ [e.prev] := by
  have hlast : e.pending.getLast? = some e.prev := by
    rw [Enc.pending, List.getLast?_take, if_neg (by omega), hok.last_pending hm hl]
    rfl
  exact (List.dropLast_append_getLast? _ hlast).symm

/-- A push keeps the run-length registers in their ranges (rule R104). -/
theorem Enc.RunOk.push (w : Byte) : (rlePush w e).1.RunOk := by
  have h15 := hok.llen_le
  have h254 := hok.cnt_le
  obtain ⟨hm, h⟩ | ⟨hm, hw, hl, h⟩ | ⟨hm, hw, hl, h⟩ | ⟨hm, hw, hl, h⟩ | ⟨hm, hw, hl, h⟩ | ⟨hm, hw, h⟩ | ⟨hm, hw, h⟩ :=
    rlePush_cases w e
  · have hc := hok.cnt_zero (by simp [hm])
    rw [h, rleFirst, Enc.startLiteral]
    constructor <;> simp [hc]
  · have hc := hok.cnt_zero (by simp [hm])
    have hlast : (e.lbuf.toList.set e.llen w)[e.llen]? = some w := by simp [show e.llen < 16 by omega]
    rw [h, rleExtend, Enc.appendLiteral]
    constructor <;> simp [hc, hm, hlast, hl]
  · have hc := hok.cnt_zero (by simp [hm])
    rw [h, rleLiteralCap]
    constructor <;> simp [hc]
  · rw [h, rleLiteralToRun]
    constructor <;> simp
  · rw [h, rleRunAfterCap]
    constructor <;> simp [hl]
  · have hl := hok.llen_zero (by simp [hm])
    rw [h, rleRun]
    split
    · constructor <;> simp [hl]
    · rename_i hcap
      simp only [Config.repCap] at hcap
      constructor <;> simp [hl, hm]
      omega
  · rw [h, rleRunToLiteral, Enc.startLiteral]
    constructor <;> simp

end

/-! ## The bytes pending -/

/-- The delta bytes a flush would send (rule R32(e)). -/
def Enc.flushBytes (e : Enc) : List Byte := expandAll (flushPending e).toList

section
variable {e : Enc}

theorem flushBytes_of_idle (hm : e.mode = .idle) : e.flushBytes = [] := by
  simp [Enc.flushBytes, flushPending, hm, expandAll]

theorem flushBytes_of_acc (hm : e.mode = .acc) (hl : e.llen ≤ 15) : e.flushBytes = e.pending := by
  have hlen : e.pending.length ≤ Config.litCap := by rw [Enc.pending_length (by omega), Config.litCap]; omega
  simp only [Enc.flushBytes, flushPending, hm]
  exact Chunk.expand_ofBytes hlen

theorem flushBytes_of_rep (hm : e.mode = .rep) (hc : e.cnt ≤ 254) : e.flushBytes = repBytes e.prev e.cnt := by
  simp only [Enc.flushBytes, flushPending, hm]
  exact Chunk.expand_ofRun (by rw [Config.repCap]; omega)

theorem expandAll_ofBytes {bs : List Byte} (h : bs.length ≤ 16) : expandAll (Chunk.ofBytes bs).toList = bs :=
  Chunk.expand_ofBytes h

theorem expandAll_ofRun {b : Byte} {k : Nat} (h : k ≤ 255) : expandAll (Chunk.ofRun b k).toList = repBytes b k :=
  Chunk.expand_ofRun h

theorem repBytes_succ (b : Byte) (k : Nat) : repBytes b k ++ [b] = repBytes b (k + 1) := List.replicate_succ'.symm

/-- A byte pushed is in the chunk emitted or pending (rule R32(e)). -/
theorem expand_push (hok : e.RunOk) (w : Byte) :
    expandAll (rlePush w e).2.toList ++ (rlePush w e).1.flushBytes = e.flushBytes ++ [w] := by
  have h15 := hok.llen_le
  have h254 := hok.cnt_le
  have hlen : e.pending.length = e.llen := Enc.pending_length (by omega)
  have hok' := hok.push w
  obtain ⟨hm, h⟩ | ⟨hm, hw, hl, h⟩ | ⟨hm, hw, hl, h⟩ | ⟨hm, hw, hl, h⟩ | ⟨hm, hw, hl, h⟩ | ⟨hm, hw, h⟩ | ⟨hm, hw, h⟩ :=
    rlePush_cases w e <;> rw [h] at hok' ⊢
  · rw [flushBytes_of_idle hm, flushBytes_of_acc rfl hok'.llen_le]
    exact e.startLiteral_pending w
  · rw [flushBytes_of_acc hm h15, flushBytes_of_acc (e := (rleExtend w e).1) hm hok'.llen_le]
    exact Enc.appendLiteral_pending w (by omega)
  · rw [flushBytes_of_acc hm h15, flushBytes_of_acc (e := (rleLiteralCap w e).1) hm hok'.llen_le, Enc.pending_nil rfl,
      List.append_nil]
    exact expandAll_ofBytes (by simp; omega)
  · rw [flushBytes_of_acc hm h15, flushBytes_of_rep rfl hok'.cnt_le, hok.pending_eq hm hl, ← hw, List.append_assoc]
    exact congrArg (· ++ [w, w]) (expandAll_ofBytes (by simp; omega))
  · rw [flushBytes_of_acc hm h15, flushBytes_of_rep rfl hok'.cnt_le, Enc.pending_nil hl]
    rfl
  · rw [flushBytes_of_rep hm h254, flushBytes_of_rep (by rw [rleRun]; split <;> exact hm) hok'.cnt_le, ← hw, repBytes_succ, rleRun]
    split
    · rename_i hcap
      simp [expandAll, Chunk.expand, repBytes, hcap, hw]
    · rfl
  · rw [flushBytes_of_rep hm h254, flushBytes_of_acc rfl hok'.llen_le]
    exact congrArg₂ (· ++ ·) (expandAll_ofRun (by omega)) (e.startLiteral_pending w)

end

/-! ## Sequences of pushes -/

/-- The bytes pushed are in the chunks emitted or pending. -/
theorem expand_pushAll {e : Enc} (hok : e.RunOk) (ws : List Byte) :
    expandAll (rlePushAll ws e).2 ++ (rlePushAll ws e).1.flushBytes = e.flushBytes ++ ws := by
  induction ws generalizing e with
  | nil => simp [rlePushAll, expandAll]
  | cons w ws ih =>
    rw [rlePushAll_cons, expandAll_append, List.append_assoc, ih (hok.push w), ← List.append_assoc, expand_push hok,
      List.append_assoc]
    rfl

theorem rlePushAll_ne_end (ws : List Byte) (e : Enc) : ∀ c, c ∈ (rlePushAll ws e).2 → c ≠ .endMark := by
  induction ws generalizing e with
  | nil => exact fun c hc => nomatch hc
  | cons w ws ih =>
    intro c hc
    rw [rlePushAll_cons, List.mem_append, Option.mem_toList] at hc
    exact hc.elim rlePush_ne_end (ih _ c)

/-- The sizes of chunks sum to the bytes they expand to. -/
theorem sum_size_eq_length (cs : List Chunk) : (cs.map Chunk.size).sum = (expandAll cs).length := by
  simp only [expandAll, List.length_flatMap, Chunk.expand_length]

/-- The chunks of a frame but for its `End`. -/
def payloadChunks (ws : List Byte) : List Chunk :=
  (rlePushAll ws Enc.reset).2 ++ (flushPending (rlePushAll ws Enc.reset).1).toList

theorem rleEncode_eq_payload (ws : List Byte) : rleEncode ws = payloadChunks ws ++ [.endMark] := by
  rw [rleEncode_eq, payloadChunks, List.append_assoc]

theorem payloadChunks_ne_end (ws : List Byte) : ∀ c, c ∈ payloadChunks ws → c ≠ .endMark := by
  intro c hc
  rw [payloadChunks, List.mem_append, Option.mem_toList] at hc
  exact hc.elim (rlePushAll_ne_end ws Enc.reset c) flushPending_ne_end

theorem expandAll_payloadChunks (ws : List Byte) : expandAll (payloadChunks ws) = ws := by
  rw [payloadChunks, expandAll_append]
  exact expand_pushAll runOk_reset ws

/-- Settles O35: at the start nothing is pending, and the flush sends what is pending at the end. -/
theorem encodedChunksExpandToInput : Obligations.EncodedChunksExpandToInput := by
  unfold Obligations.EncodedChunksExpandToInput
  intro ws
  exact ⟨payloadChunks ws, rleEncode_eq_payload ws, payloadChunks_ne_end ws, expandAll_payloadChunks ws,
    by rw [sum_size_eq_length, expandAll_payloadChunks]⟩

/-! ## Uniform frames -/

/-- Equal bytes in a run: a repeat of 255 at each cap, the remainder pending (rules R96, R102). -/
theorem rlePushAll_run (b : Byte) (n : Nat) (e : Enc) (hm : e.mode = .rep) (hb : b = e.prev) (hc : e.cnt ≤ 254) :
    rlePushAll (List.replicate n b) e =
      ({ e with cnt := (e.cnt + n) % 255 }, List.replicate ((e.cnt + n) / 255) (.rep b 255)) := by
  subst hb
  induction n generalizing e with
  | zero =>
    rw [Nat.add_zero, Nat.mod_eq_of_lt (by omega), Nat.div_eq_of_lt (by omega)]
    rfl
  | succ n ih =>
    rw [List.replicate_succ, rlePushAll_cons, rlePush_of_rep_eq hm rfl]
    by_cases hcap : e.cnt = 254
    · have hsum : e.cnt + (n + 1) = n + 255 := by omega
      have hrest := ih { e with cnt := 0 } hm (Nat.zero_le _)
      rw [rleRun_at_cap hcap, hsum, Nat.add_mod_right, Nat.add_div_right _ (by decide)]
      simp only at hrest ⊢
      rw [hrest, Nat.zero_add]
      rfl
    · have hsum : e.cnt + (n + 1) = e.cnt + 1 + n := by omega
      have hrest := ih { e with cnt := e.cnt + 1 } hm (show e.cnt + 1 ≤ 254 by omega)
      rw [rleRun_below_cap (by omega), hsum]
      exact hrest

/-- The registers after the two bytes that open a run (rules R91, R94). -/
theorem rlePushAll_pair (b : Byte) :
    ∃ e : Enc, rlePushAll [b, b] Enc.reset = (e, []) ∧ e.mode = .rep ∧ b = e.prev ∧ e.cnt = 2 := by
  have hfirst : rlePush b Enc.reset = rleFirst b Enc.reset := rlePush_of_idle rfl
  have hsecond : rlePush b (rleFirst b Enc.reset).1 = rleLiteralToRun b (rleFirst b Enc.reset).1 := by
    rw [rlePush_of_acc_eq (w := b) (e := (rleFirst b Enc.reset).1) rfl rfl]
    exact if_neg Nat.one_ne_zero
  refine ⟨(rleLiteralToRun b (rleFirst b Enc.reset).1).1, ?_, rfl, rfl, rfl⟩
  have hpending : (rleFirst b Enc.reset).1.pending = [b] := Enc.reset.startLiteral_pending b
  rw [rlePushAll_cons, rlePushAll_cons, hfirst, hsecond, rleLiteralToRun, hpending]
  rfl

/-- The whole repeats and the rest, when the rest counts 1 to 255. -/
theorem replicate_rep_split (b : Byte) {n q r : Nat} (hn : n = 255 * q + r) (h1 : 1 ≤ r) (h2 : r ≤ 255) :
    List.replicate (n / 255) (Chunk.rep b 255) ++ (Chunk.ofRun b (n % 255)).toList =
      List.replicate q (Chunk.rep b 255) ++ [Chunk.rep b r ⟨h1, h2⟩] := by
  by_cases hr : r = 255
  · subst hr
    have hdiv : n / 255 = q + 1 := by omega
    have hmod : n % 255 = 0 := by omega
    rw [hdiv, hmod, List.replicate_succ']
    simp
  · have hdiv : n / 255 = q := by omega
    have hmod : n % 255 = r := by omega
    rw [hdiv, hmod, Chunk.ofRun_legal ⟨h1, h2⟩]
    rfl

/-- Settles O36: the first two bytes open the run, the others extend it, and the flush sends the rest. -/
theorem uniformFrameIsFullRepeats : Obligations.UniformFrameIsFullRepeats := by
  unfold Obligations.UniformFrameIsFullRepeats
  intro b len hlen
  obtain ⟨n, rfl⟩ : ∃ n, len = 2 + n := Nat.exists_eq_add_of_le hlen
  obtain ⟨e, hpair, hm, hb, hc⟩ := rlePushAll_pair b
  have hrun := rlePushAll_run b n e hm hb (by omega)
  rw [hc] at hrun
  have hall : rlePushAll (List.replicate (2 + n) b) Enc.reset =
      ({ e with cnt := (2 + n) % 255 }, List.replicate ((2 + n) / 255) (.rep b 255)) := by
    have hsplit : List.replicate (2 + n) b = [b, b] ++ List.replicate n b := List.replicate_add ..
    rw [hsplit, rlePushAll_append, hpair, hrun]
    rfl
  have h1 : 1 ≤ 2 + n - 255 * ((2 + n - 1) / 255) := by omega
  have h2 : 2 + n - 255 * ((2 + n - 1) / 255) ≤ 255 := by omega
  refine ⟨⟨h1, h2⟩, by decide, ?_⟩
  rw [rleEncode_eq_payload, payloadChunks, hall]
  simp only [flushPending, hm, ← hb]
  rw [replicate_rep_split b (q := (2 + n - 1) / 255) (by omega) h1 h2, List.append_assoc]
  rfl

/-! ## Alternating frames -/

/-- Chunks that are literals of 16 bytes, the last of them of at most 16, and that expand to `ws`. -/
structure FullLiterals (cs : List Chunk) (ws : List Byte) : Prop where
  literals : ∀ c, c ∈ cs → c.isLiteral = true
  expand : expandAll cs = ws
  length : cs.length = (ws.length + 15) / 16
  full : ∀ k (h : k + 1 < cs.length), cs[k].size = 16

/-- Fewer than 16 bytes are one literal, or none. -/
theorem fullLiterals_ofBytes {bs : List Byte} (h : bs.length ≤ 15) : FullLiterals (Chunk.ofBytes bs).toList bs := by
  match bs, h with
  | [], _ => exact ⟨nofun, rfl, rfl, nofun⟩
  | b :: bs, h =>
    have hlegal : 1 ≤ (b :: bs).length ∧ (b :: bs).length ≤ Config.litCap := ⟨by simp, by rw [Config.litCap]; omega⟩
    rw [Chunk.ofBytes_legal hlegal]
    refine ⟨fun c hc => ?_, by simp [expandAll, Chunk.expand], ?_, fun k hk => ?_⟩
    · rw [List.mem_singleton.1 hc]
      rfl
    · simp only [Option.toList_some, List.length_singleton]
      have := hlegal.1
      omega
    · simp at hk

/-- A full literal in front. -/
theorem FullLiterals.cons {cs : List Chunk} {ws bs : List Byte} (h : FullLiterals cs ws) (h16 : bs.length = 16) (legal) :
    FullLiterals (.literal bs legal :: cs) (bs ++ ws) where
  literals c hc := by
    rcases List.mem_cons.1 hc with rfl | hc
    · rfl
    · exact h.literals c hc
  expand := congrArg (bs ++ ·) h.expand
  length := by
    rw [List.length_cons, h.length, List.length_append]
    omega
  full k hk := by
    cases k with
    | zero => exact h16
    | succ k => exact h.full k (Nat.lt_of_succ_lt_succ hk)

/-- Differing bytes behind a pending literal (rules R92, R93). -/
theorem fullLiterals_pushAll (ws : List Byte) (e : Enc) (hm : e.mode = .acc) (hl : e.llen ≤ 15)
    (hws : (e.prev :: ws).IsChain (fun a b => b ≠ a)) :
    FullLiterals ((rlePushAll ws e).2 ++ (flushPending (rlePushAll ws e).1).toList) (e.pending ++ ws) := by
  have hlen : e.pending.length = e.llen := Enc.pending_length (by omega)
  induction ws generalizing e with
  | nil =>
    simp only [rlePushAll, flushPending, hm, List.nil_append, List.append_nil]
    exact fullLiterals_ofBytes (by omega)
  | cons w ws ih =>
    obtain ⟨hw, hws'⟩ := List.isChain_cons_cons.1 hws
    have hsplit : e.pending ++ w :: ws = e.pending ++ [w] ++ ws := by simp
    rw [rlePushAll_cons, rlePush_of_acc_ne hm hw, hsplit]
    by_cases hroom : e.llen + 1 < Config.litCap
    · have h15 : e.llen + 1 ≤ 15 := Nat.le_of_lt_succ hroom
      rw [if_pos hroom]
      have hrest := ih (rleExtend w e).1 hm h15 hws' (Enc.pending_length (e := (rleExtend w e).1) (by exact h15.trans (by omega)))
      rwa [show (rleExtend w e).1.pending = e.pending ++ [w] from Enc.appendLiteral_pending w (by omega)] at hrest
    · rw [if_neg hroom]
      have h16 : (e.pending ++ [w]).length = 16 := by
        simp only [Config.litCap] at hroom
        rw [List.length_append, List.length_singleton]
        omega
      have hnil : (rleLiteralCap w e).1.pending = [] := Enc.pending_nil rfl
      have hrest := ih (rleLiteralCap w e).1 hm (Nat.zero_le _) hws' (by rw [hnil]; rfl)
      rw [hnil] at hrest
      have hchunk : (rleLiteralCap w e).2 = some (.literal (e.pending ++ [w]) ⟨by omega, h16.le⟩) := Chunk.ofBytes_legal _
      rw [hchunk]
      exact hrest.cons h16 _

/-- Settles O37: the first byte opens a literal, and every other one extends it. -/
theorem alternatingFrameIsFullLiterals : Obligations.AlternatingFrameIsFullLiterals := by
  unfold Obligations.AlternatingFrameIsFullLiterals
  intro ws hws
  have hfull : FullLiterals (payloadChunks ws) ws := by
    match ws, hws with
    | [], _ => exact ⟨nofun, rfl, rfl, nofun⟩
    | w :: ws, hws =>
      have hchain : (w :: ws).IsChain (fun a b => b ≠ a) := List.isChain_iff_getElem.2 hws
      have hrest := fullLiterals_pushAll ws (rleFirst w Enc.reset).1 rfl (Nat.le_of_lt_succ (by decide : 1 < 16)) hchain
      rwa [show (rleFirst w Enc.reset).1.pending = [w] from Enc.reset.startLiteral_pending w] at hrest
  exact ⟨payloadChunks ws, rleEncode_eq_payload ws, hfull.literals, hfull.expand, hfull.length, hfull.full⟩

/-! ## The delta stream of a frame -/

/-- The delta stream, index by index (rule R86). -/
theorem deltaStream_readAll (a : Bool) (s : State) :
    deltaStream a (readAll s .frame) (readAll s .txb) =
      (List.range s.params.encL).map fun i => deltaByte a (memRead s .frame i) (memRead s .txb i) := by
  simp only [deltaStream, readAll, State.spaceLength, List.zipWith_map, List.zipWith_self]

/-- Settles O38: every byte of the delta stream is 0x00. -/
theorem unchangedFrameIsZeroRepeats : Obligations.UnchangedFrameIsZeroRepeats := by
  unfold Obligations.UnchangedFrameIsZeroRepeats
  intro s hactive hlen hsame
  have hzero : deltaStream (encXorActive s) (readAll s .frame) (readAll s .txb) = List.replicate s.params.encL 0x00 := by
    rw [deltaStream_readAll, List.eq_replicate_iff]
    refine ⟨by simp, fun b hb => ?_⟩
    obtain ⟨i, hi, rfl⟩ := List.mem_map.1 hb
    rw [hsame i (List.mem_range.1 hi), deltaByte, if_pos hactive, BitVec.xor_self]
    rfl
  rw [encodeChunks_eq, hzero]
  exact uniformFrameIsFullRepeats 0x00 s.params.encL hlen

/-- Settles O39: the first-frame flag turns XOR off, so the delta stream is the frame. -/
theorem firstFrameIsSentRaw : Obligations.FirstFrameIsSentRaw := by
  unfold Obligations.FirstFrameIsSentRaw
  intro s hfirst
  have hinactive : encXorActive s = false := by simp [encXorActive, hfirst]
  rw [encodeChunks_eq, deltaStream_readAll, hinactive]
  rfl

end Sys2Proof.Machine
end

section
/-! One encode as steps of ENC (40_xor_delta_encoder.md rules R80, R86, 41_rle_encoder.md rule R101): the scan and the flush emit the
chunks of `Encode(F)`, whatever the channel, and over the wire they send its serialized form. -/

namespace Sys2Proof.Machine

/-! ## Registers that push alike -/

/-- The registers a push reads are the same: `ENC_PREV` counts only where a byte has been pushed, and `ENC_LBUF` only below
`ENC_LLEN` (rules R14, R16). -/
structure Enc.SameRun (e e' : Enc) : Prop where
  mode : e'.mode = e.mode
  llen : e'.llen = e.llen
  cnt : e'.cnt = e.cnt
  pending : e'.pending = e.pending
  prev : e.mode ≠ .idle → e'.prev = e.prev

section
variable {e e' : Enc} (h : e.SameRun e')
include h

theorem Enc.SameRun.flushPending_eq : flushPending e' = flushPending e := by
  unfold flushPending
  rw [h.mode]
  split
  · rfl
  · rw [h.pending]
  · rw [h.prev (by simp [*]), h.cnt]

/-- Such registers emit the same chunk and stay alike. -/
theorem Enc.SameRun.push (hok : e.RunOk) (w : Byte) :
    (rlePush w e').2 = (rlePush w e).2 ∧ (rlePush w e).1.SameRun (rlePush w e').1 := by
  have h15 := hok.llen_le
  obtain ⟨hm, hp⟩ | ⟨hm, hw, hl, hp⟩ | ⟨hm, hw, hl, hp⟩ | ⟨hm, hw, hl, hp⟩ | ⟨hm, hw, hl, hp⟩ | ⟨hm, hw, hp⟩ | ⟨hm, hw, hp⟩ :=
    rlePush_cases w e <;> rw [hp] <;> have hm' := h.mode.trans hm
  · rw [rlePush_of_idle hm']
    exact ⟨rfl, rfl, rfl, h.cnt, (e'.startLiteral_pending w).trans (e.startLiteral_pending w).symm, fun _ => rfl⟩
  all_goals have hprev := h.prev (by simp [hm])
  · rw [rlePush_of_acc_ne hm' (by rwa [hprev]), h.llen, if_pos (Nat.succ_lt_succ hl)]
    refine ⟨rfl, h.mode, congrArg (· + 1) h.llen, h.cnt, ?_, fun _ => rfl⟩
    calc (e'.appendLiteral w).pending = e'.pending ++ [w] := Enc.appendLiteral_pending w (by rw [h.llen]; omega)
      _ = e.pending ++ [w] := by rw [h.pending]
      _ = (e.appendLiteral w).pending := (Enc.appendLiteral_pending w (by omega)).symm
  · rw [rlePush_of_acc_ne hm' (by rwa [hprev]), h.llen, if_neg (by simp only [Config.litCap]; omega)]
    exact ⟨congrArg (fun bs : List Byte => Chunk.ofBytes (bs ++ [w])) h.pending, h.mode, rfl, h.cnt,
      (Enc.pending_nil rfl).trans (Enc.pending_nil rfl).symm, fun _ => rfl⟩
  · rw [rlePush_of_acc_eq hm' (by rwa [hprev]), h.llen, if_neg (by omega)]
    exact ⟨congrArg (fun bs : List Byte => Chunk.ofBytes bs.dropLast) h.pending, rfl, rfl, rfl,
      (Enc.pending_nil rfl).trans (Enc.pending_nil rfl).symm, fun _ => rfl⟩
  · rw [rlePush_of_acc_eq hm' (by rwa [hprev]), h.llen, if_pos hl]
    exact ⟨rfl, rfl, h.llen, rfl, h.pending, fun _ => rfl⟩
  · rw [rlePush_of_rep_eq hm' (by rwa [hprev]), rleRun, rleRun, h.cnt, hprev]
    split
    · exact ⟨rfl, h.mode, h.llen, rfl, h.pending, fun _ => rfl⟩
    · exact ⟨rfl, h.mode, h.llen, rfl, h.pending, fun _ => rfl⟩
  · rw [rlePush_of_rep_ne hm' (by rwa [hprev]), rleRunToLiteral, rleRunToLiteral, hprev, h.cnt]
    exact ⟨rfl, rfl, rfl, rfl, (e'.startLiteral_pending w).trans (e.startLiteral_pending w).symm, fun _ => rfl⟩

end

/-! ## Steps of ENC into a ready sink -/

/-- `n` steps of ENC from `s`, each into a sink that is ready, emit the chunks `cs` and leave the registers `e`. -/
inductive EncRuns : Nat → State → List Chunk → Enc → Prop
  | done (s : State) : EncRuns 0 s [] s.enc
  | turn {n : Nat} {s : State} {e e' : Enc} {c : Option Chunk} {cs : List Chunk} :
    encNext s = .next (s.setEnc e, c) → EncRuns n (s.setEnc e) cs e' → EncRuns (n + 1) s (c.toList ++ cs) e'

/-- Only the sending half and `FRAME` matter to them. -/
theorem EncRuns.under {n : Nat} {s : State} {cs : List Chunk} {e : Enc} (h : EncRuns n s cs e) (o : State) :
    EncRuns n (s.under o) cs e := by
  induction h with
  | done s => exact .done (s.under o)
  | @turn n s e e' c cs hnext _ ih =>
    have hnext' : encNext (s.under o) = .next ((s.under o).setEnc e, c) := encNext_under o hnext
    exact .turn hnext' ih

theorem EncRuns.of_same {n : Nat} {s t : State} {cs : List Chunk} {e : Enc} (h : EncRuns n s cs e)
    (hp : t.params = s.params) (hf : t.frame = s.frame) (he : t.enc = s.enc) : EncRuns n t cs e := by
  have ht : t = s.under t := by rw [State.under, ← hp, ← hf, ← he]
  rw [ht]
  exact h.under t

theorem EncRuns.append {m n : Nat} {s : State} {cs ds : List Chunk} {e e' : Enc} (h : EncRuns m s cs e)
    (h' : EncRuns n (s.setEnc e) ds e') : EncRuns (m + n) s (cs ++ ds) e' := by
  induction h with
  | done s =>
    rw [Nat.zero_add]
    exact h'
  | turn hnext _ ih =>
    rw [List.append_assoc, Nat.succ_add]
    exact .turn hnext (ih h')

/-! ## The scan -/

/-- The delta bytes from an index on (rule R86). -/
def deltasFrom (s : State) (i n : Nat) : List Byte :=
  (List.range' i n).map fun j => deltaByte (encXorActive s) (memRead s .frame j) (memRead s .txb j)

theorem deltasFrom_zero (s : State) :
    deltasFrom s 0 s.params.encL = deltaStream (encXorActive s) (readAll s .frame) (readAll s .txb) := by
  rw [deltaStream_readAll, deltasFrom, List.range_eq_range']

/-- The registers that one iteration of the scan leaves (rules R80, R82). -/
def scanEnc (s : State) : Enc := (rlePush (xdeByte s).2 (xdeByte s).1.enc).1

theorem encNext_scanEnc {s : State} (hb : s.enc.busy = true) (hok : s.enc.RunOk) (hi : s.enc.idx < s.params.encL) :
    encNext s = .next (s.setEnc (scanEnc s), (rlePush (xdeByte s).2 (xdeByte s).1.enc).2) :=
  encNext_of_scan hb hok.llen_le hok.cnt_le hi

theorem sameRun_xdeByte {e : Enc} {s : State} (h : e.SameRun s.enc) : e.SameRun (xdeByte s).1.enc :=
  ⟨h.mode, h.llen, h.cnt, h.pending, h.prev⟩

theorem runOk_xdeByte {s : State} (h : s.enc.RunOk) : (xdeByte s).1.enc.RunOk :=
  ⟨h.last_pending, h.llen_le, h.cnt_le, h.llen_acc, h.cnt_rep⟩

theorem scanEnc_frame (s : State) :
    (scanEnc s).first = s.enc.first ∧ (scanEnc s).idx = s.enc.idx + 1 ∧ (scanEnc s).busy = s.enc.busy ∧
      (scanEnc s).ending = s.enc.ending := by
  obtain ⟨-, hfirst, hidx, hbusy, hending, -⟩ := rlePush_frame (xdeByte s).2 (xdeByte s).1.enc
  exact ⟨hfirst, hidx, hbusy, hending⟩

theorem memRead_scanEnc_txb (s : State) (j : Nat) :
    memRead (s.setEnc (scanEnc s)) .txb j = if j = s.enc.idx then memRead s .frame s.enc.idx else memRead s .txb j := by
  rw [← memRead_xdeByte_txb]
  exact memRead_congr (s := (xdeByte s).1) (t := s.setEnc (scanEnc s)) (sp := .txb)
    (rlePush_frame (xdeByte s).2 (xdeByte s).1.enc).1 rfl j

/-- What the scan leaves of the sending half beside the run-length registers: `TXB` is the frame from `ENC_IDX` on, the index is `L`,
the flags are as they were (rule R80). -/
structure ScanLeaves (s : State) (e : Enc) : Prop where
  txb : ∀ j, memRead (s.setEnc e) .txb j =
    if s.enc.idx ≤ j ∧ j < s.params.encL then memRead s .frame j else memRead s .txb j
  first : e.first = s.enc.first
  idx : e.idx = s.params.encL
  busy : e.busy = s.enc.busy
  ending : e.ending = s.enc.ending

/-- The scan pushes the delta bytes of the frame in order (rules R80, R86). -/
theorem encRuns_scan (n : Nat) (s : State) (e₀ : Enc) (hb : s.enc.busy = true) (hok : s.enc.RunOk) (hok₀ : e₀.RunOk)
    (h : e₀.SameRun s.enc) (hn : s.enc.idx + n = s.params.encL) :
    ∃ e, EncRuns n s (rlePushAll (deltasFrom s s.enc.idx n) e₀).2 e ∧ e.RunOk ∧
      (rlePushAll (deltasFrom s s.enc.idx n) e₀).1.SameRun e ∧ ScanLeaves s e := by
  induction n generalizing s e₀ with
  | zero =>
    refine ⟨s.enc, .done s, hok, h, fun j => ?_, rfl, hn, rfl, rfl⟩
    rw [if_neg (by omega)]
    rfl
  | succ n ih =>
    obtain ⟨hfirst, hidx, hbusy, hending⟩ := scanEnc_frame s
    have hnext := encNext_scanEnc hb hok (by omega)
    obtain ⟨hchunk, hsame⟩ := (sameRun_xdeByte h).push hok₀ (xdeByte s).2
    obtain ⟨e, hruns, hok', hsame', hleaves⟩ := ih (s.setEnc (scanEnc s)) _ (hbusy.trans hb) ((runOk_xdeByte hok).push _)
      (hok₀.push _) hsame (show (scanEnc s).idx + n = s.params.encL by omega)
    have hcons : deltasFrom s s.enc.idx (n + 1) =
        (xdeByte s).2 :: deltasFrom (s.setEnc (scanEnc s)) (scanEnc s).idx n := by
      have hactive : encXorActive (s.setEnc (scanEnc s)) = encXorActive s := by simp [encXorActive, hfirst]
      rw [deltasFrom, List.range'_succ, List.map_cons, ← xdeByte_snd, deltasFrom, hidx, hactive]
      refine congrArg _ (List.map_congr_left fun j hj => ?_)
      have hlt : s.enc.idx + 1 ≤ j := (List.mem_range'_1.1 hj).1
      rw [memRead_scanEnc_txb, if_neg (by omega)]
      rfl
    rw [hcons, rlePushAll_cons, ← hchunk]
    refine ⟨e, .turn hnext hruns, hok', hsame', fun j => ?_, hleaves.first.trans hfirst, hleaves.idx, hleaves.busy.trans hbusy,
      hleaves.ending.trans hending⟩
    have htxb := hleaves.txb j
    rw [memRead_scanEnc_txb, State.setEnc_enc, hidx, State.setEnc_params] at htxb
    refine htxb.trans ?_
    by_cases hj : j = s.enc.idx
    · subst hj
      rw [if_neg (by omega), if_pos rfl, if_pos (by omega)]
    · by_cases hlt : s.enc.idx + 1 ≤ j ∧ j < s.params.encL
      · rw [if_pos hlt, if_pos (by omega)]
        rfl
      · rw [if_neg hlt, if_neg hj, if_neg (by omega)]

/-! ## The flush -/

/-- The flush takes at most two turns, and a turn beyond it changes nothing (rule R99). -/
theorem encRuns_flush {s : State} (hb : s.enc.busy = true) (hok : s.enc.RunOk) (hi : s.enc.idx = s.params.encL)
    (he : s.enc.ending = false) : EncRuns 2 s (rleFlush s.enc) s.enc.flushed := by
  have hnext := encNext_of_flush hb hok.llen_le hok.cnt_le hi
  cases hc : flushPending s.enc with
  | none =>
    rw [encFlush, rleFlushNext_of_end (.inr hc)] at hnext
    have hrest : EncRuns 1 (s.setEnc s.enc.flushed) [] s.enc.flushed :=
      .turn (e := s.enc.flushed) (c := none) (encNext_of_not_busy rfl) (.done _)
    rw [rleFlush, hc]
    exact .turn (c := some .endMark) hnext hrest
  | some c =>
    rw [encFlush, rleFlushNext_of_pending he hc] at hnext
    have hlast := encNext_of_flush (s := s.setEnc { s.enc with ending := true }) hb hok.llen_le hok.cnt_le hi
    rw [encFlush, rleFlushNext_of_end (.inl rfl)] at hlast
    have hrest : EncRuns 1 (s.setEnc { s.enc with ending := true }) [.endMark] s.enc.flushed :=
      .turn (e := s.enc.flushed) (c := some .endMark) hlast (.done _)
    rw [rleFlush, hc]
    exact .turn (c := some c) hnext hrest

/-! ## One encode -/

/-- What one encode leaves of the sending half (rules R80, R99). -/
structure EncodeLeaves (s : State) (e : Enc) : Prop where
  txb_frame : ∀ i, i < s.params.encL → memRead (s.setEnc e) .txb i = memRead s .frame i
  txb_elsewhere : ∀ i, s.params.encL ≤ i → memRead (s.setEnc e) .txb i = memRead s .txb i
  first : e.first = false
  busy : e.busy = false
  mode : e.mode = .idle
  llen : e.llen = 0
  cnt : e.cnt = 0
  idx : e.idx = 0
  ending : e.ending = false

/-- The sending half when an encode has just begun (rule R81). -/
structure Enc.Started (e : Enc) : Prop where
  busy : e.busy = true
  mode : e.mode = .idle
  llen : e.llen = 0
  cnt : e.cnt = 0
  idx : e.idx = 0
  ending : e.ending = false

/-- The turns of one encode emit the chunks of `Encode(F)` (rule R101). -/
theorem encRuns_encode {s : State} (h : s.enc.Started) :
    ∃ e, EncRuns (s.params.encL + 2) s (encodeFrame s).chunks e ∧ EncodeLeaves s e := by
  have hok : s.enc.RunOk := by constructor <;> simp [h.mode, h.llen, h.cnt]
  have hsame : Enc.reset.SameRun s.enc :=
    ⟨h.mode, h.llen, h.cnt, (Enc.pending_nil h.llen).trans (Enc.pending_nil rfl).symm, fun hne => absurd rfl hne⟩
  obtain ⟨e, hscan, hok', hsame', hleaves⟩ :=
    encRuns_scan s.params.encL s Enc.reset h.busy hok runOk_reset hsame (by rw [h.idx, Nat.zero_add])
  have hflush := encRuns_flush (s := s.setEnc e) (hleaves.busy.trans h.busy) hok' hleaves.idx (hleaves.ending.trans h.ending)
  have hall := hscan.append hflush
  have hpending : rleFlush e = rleFlush (rlePushAll (deltasFrom s s.enc.idx s.params.encL) Enc.reset).1 := by
    rw [rleFlush, rleFlush, hsame'.flushPending_eq]
  rw [State.setEnc_enc, hpending, h.idx, deltasFrom_zero] at hall
  have htxb : ∀ j, memRead (s.setEnc e.flushed) .txb j =
      if s.enc.idx ≤ j ∧ j < s.params.encL then memRead s .frame j else memRead s .txb j := hleaves.txb
  refine ⟨e.flushed, hall, fun i hi => ?_, fun i hi => ?_, rfl, rfl, rfl, rfl, rfl, rfl, rfl⟩
  · rw [htxb, if_pos ⟨h.idx ▸ Nat.zero_le i, hi⟩]
  · rw [htxb, if_neg (by omega)]

/-! ## Over the wire -/

/-- The event a chunk raises when the sink has taken it: `enc_done` for `End` (rule R99). -/
def takenEvents (c : Chunk) : List PortEvent := if c = .endMark then [.encDone] else []

theorem chunkTaken_eq (c : Chunk) (s : State) : chunkTaken c s = { s with events := s.events ++ takenEvents c } := by
  cases c <;> simp [chunkTaken, takenEvents, State.raiseEvent]

theorem takenEvents_frame {cs : List Chunk} (h : ∀ c, c ∈ cs → c ≠ .endMark) :
    (cs ++ [Chunk.endMark]).flatMap takenEvents = [.encDone] := by
  have hcs : cs.flatMap takenEvents = [] := List.flatMap_eq_nil_iff.2 fun c hc => if_neg (h c hc)
  rw [List.flatMap_append, hcs]
  rfl

theorem step_encTurn {s : State} {ms : List Move} (h : s.schedule = .encTurn :: ms) :
    step s = encTurn (s.setSchedule ms) := step_scheduled h

/-- Turns of ENC over the wire, the channel ready: the serialized chunks go behind the bytes in flight (rules R125, R130). -/
theorem run_encTurns {n : Nat} {s : State} {cs : List Chunk} {e : Enc} (ms : List Move) (h : EncRuns n s cs e)
    (hr : s.chan.txReady = true) (hs : s.schedule = List.replicate n .encTurn ++ ms) :
    Host.Core.run Sys2Proof.core n s =
      .next { s with
        enc := e
        chan := { s.chan with bytes := s.chan.bytes ++ serAll cs }
        events := s.events ++ cs.flatMap takenEvents
        schedule := ms } := by
  induction n generalizing s cs with
  | zero =>
    cases h
    rw [run_zero, ← show s.schedule = ms from hs]
    simp
  | succ n ih =>
    obtain _ | ⟨hnext, hrest⟩ := h
    rename_i e₁ c cs
    let o := s.setSchedule (List.replicate n .encTurn ++ ms)
    have hnext' : encNext o = .next (o.setEnc e₁, c) := encNext_under o hnext
    have hstep : step s = encTurn o := step_encTurn hs
    cases c with
    | none =>
      rw [encTurn_of_silent hnext'] at hstep
      rw [run_succ_of_next _ hstep]
      exact ih (s := o.setEnc e₁) (hrest.of_same rfl rfl rfl) hr rfl
    | some c =>
      let u : State := { sendChunk c (o.setEnc e₁) with events := s.events ++ takenEvents c }
      have hu : encTurn o = .next u := by
        rw [encTurn_of_ready (s := o) hr hnext', chunkTaken_eq]
        rfl
      rw [run_succ_of_next _ (hstep.trans hu)]
      refine (ih (s := u) (hrest.of_same rfl rfl rfl) hr rfl).trans ?_
      simp only [Option.toList_some, List.singleton_append, serAll_cons, List.flatMap_cons, ← List.append_assoc]
      rfl

/-! ## The start -/

/-- The state that `enc_start` leaves between encodes (rule R81). -/
def State.started (s : State) (ms : List Move) : State :=
  { s with enc := { s.enc with busy := true, idx := 0 }, starts := s.starts + 1, schedule := ms }

theorem step_encStart {s : State} {ms : List Move} (hb : s.enc.busy = false) (hs : s.schedule = .encStart :: ms) :
    step s = .next (s.started ms) := by
  rw [step_scheduled hs, makeMove, encStart_of_not_busy (s := (s.setSchedule ms).countStart) hb]
  rfl

/-- Registers in their ranges are at rest between encodes (rules R32(c), R32(d)). -/
theorem started_of_encOk {s : State} (ms : List Move) (hb : s.enc.busy = false) (hok : EncOk s.params.encL s.enc) :
    (s.started ms).enc.Started := by
  have hm := hok.idle_of_not_busy hb
  have hrun := hok.runOk
  refine ⟨rfl, hm, hrun.llen_zero (by simp [hm]), hrun.cnt_zero (by simp [hm]), rfl, ?_⟩
  show s.enc.ending = false
  by_contra he
  have hbusy := (hok.ending_at_end (by simpa using he)).1
  rw [hb] at hbusy
  cases hbusy

theorem encodeFrame_eq (s : State) :
    ∃ cs, (encodeFrame s).chunks = cs ++ [.endMark] ∧ (∀ c, c ∈ cs → c ≠ .endMark) ∧
      expandAll cs = deltaStream (encXorActive s) (readAll s .frame) (readAll s .txb) :=
  ⟨_, rleEncode_eq_payload _, payloadChunks_ne_end _, expandAll_payloadChunks _⟩

theorem takenEvents_encodeFrame (s : State) : (encodeFrame s).chunks.flatMap takenEvents = [.encDone] := by
  obtain ⟨cs, hcs, hne, -⟩ := encodeFrame_eq s
  rw [hcs, takenEvents_frame hne]

theorem EncodeLeaves.readAll_txb {s : State} {e : Enc} (h : EncodeLeaves s e) : readAll (s.setEnc e) .txb = readAll s .frame :=
  List.map_congr_left fun i hi => h.txb_frame i (List.mem_range.1 hi)

/-- The state in which one encode has sent its chunks over the wire. -/
def State.sent (s : State) (ms : List Move) (e : Enc) : State :=
  { s with
    enc := e
    chan := { s.chan with bytes := s.chan.bytes ++ serAll (encodeFrame s).chunks }
    events := s.events ++ [.encDone]
    starts := s.starts + 1
    schedule := ms }

/-- The turns that follow a start between encodes, whatever the schedule. -/
theorem encRuns_started {s : State} (hb : s.enc.busy = false) (hok : EncOk s.params.encL s.enc) :
    ∃ e, EncRuns (s.params.encL + 2) (s.started []) (encodeFrame s).chunks e ∧ EncodeLeaves s e := by
  obtain ⟨e, hruns, h⟩ := encRuns_encode (started_of_encOk [] hb hok)
  exact ⟨e, hruns, h.txb_frame, h.txb_elsewhere, h.first, h.busy, h.mode, h.llen, h.cnt, h.idx, h.ending⟩

/-- The start and the turns of one encode over the wire. -/
theorem run_encode {s : State} {ms : List Move} {e : Enc} (hb : s.enc.busy = false)
    (hruns : EncRuns (s.params.encL + 2) (s.started []) (encodeFrame s).chunks e) (hr : s.chan.txReady = true)
    (hs : s.schedule = .encStart :: (List.replicate (s.params.encL + 2) .encTurn ++ ms)) :
    Host.Core.run Sys2Proof.core (s.params.encL + 3) s = .next (s.sent ms e) := by
  have hstep := step_encStart hb hs
  have hruns' := hruns.of_same (t := s.started (List.replicate (s.params.encL + 2) .encTurn ++ ms)) rfl rfl rfl
  have hsent := run_encTurns ms hruns' hr rfl
  rw [takenEvents_encodeFrame] at hsent
  rw [run_succ_of_next _ hstep]
  exact hsent

/-- Settles O40: the start leaves the registers at rest, and the turns emit what the function gives. -/
theorem encodeStepsSendEncodedFrame : Obligations.EncodeStepsSendEncodedFrame := by
  unfold Obligations.EncodeStepsSendEncodedFrame
  intro s ms hb hok hr hs
  obtain ⟨e, hruns, h⟩ := encRuns_started hb hok
  exact ⟨s.sent ms e, run_encode hb hruns hr hs, rfl, h.readAll_txb, h.first, h.txb_frame, h.txb_elsewhere, h.first,
    h.busy, h.mode, h.llen, h.cnt, h.idx, h.ending, rfl, rfl, rfl, rfl, rfl, rfl⟩

end Sys2Proof.Machine
end

section
/-! The invariant of the system (10_state.md section 5): it holds at reset, every step keeps it, and what it rules out (rules R25, R32,
R33, R40, R104, R117, R196). -/

namespace Sys2Proof.Machine

/-! ## Buffers in canonical form -/

theorem cellsOk_nil (u : Option Byte) (len : Nat) : CellsOk u len [] := ⟨Memory.wf_nil u, nofun⟩

theorem CellsOk.write {u : Option Byte} {len : Nat} {m : Memory} (h : CellsOk u len m) {i : Nat} (hi : i < len) (v : Byte) :
    CellsOk u len (Memory.write u m i v) := by
  refine ⟨Memory.wf_write i v h.1, fun cell hcell => ?_⟩
  rcases Memory.mem_write hcell with rfl | hmem
  · exact hi
  · exact h.2 cell hmem

theorem cellsOk_xddBytes (ds : List Byte) (s : State) (p : Nat) {len : Nat} (h : CellsOk (unlisted .dst) len s.dec.dst)
    (hlen : p + ds.length ≤ len) : CellsOk (unlisted .dst) len (xddBytes s p ds).dec.dst := by
  induction ds generalizing s p with
  | nil => exact h
  | cons d ds ih =>
    rw [List.length_cons] at hlen
    exact ih (xddByte s p d) (p + 1) (h.write (by omega) _) (by omega)

theorem cellsOk_copyDstToRxb (n : Nat) (s : State) {len : Nat} (h : CellsOk (unlisted .rxb) len s.dec.rxb) (hn : n ≤ len) :
    CellsOk (unlisted .rxb) len (copyDstToRxb n s).dec.rxb := by
  induction n with
  | zero => exact h
  | succ n ih => exact (ih (by omega)).write (by omega) _

/-! ## The encoder registers -/

/-- A push is never followed by mode `Idle` (rule R13). -/
theorem rlePush_mode_ne_idle (w : Byte) (e : Enc) : (rlePush w e).1.mode ≠ .idle := by
  obtain ⟨hm, h⟩ | ⟨hm, -, -, h⟩ | ⟨hm, -, -, h⟩ | ⟨hm, -, -, h⟩ | ⟨hm, -, -, h⟩ | ⟨hm, -, h⟩ | ⟨hm, -, h⟩ := rlePush_cases w e <;>
    rw [h]
  · simp [rleFirst]
  · simp [rleExtend, Enc.appendLiteral, hm]
  · simp [rleLiteralCap, hm]
  · simp [rleLiteralToRun]
  · simp [rleRunAfterCap]
  · rw [rleRun]
    split <;> simp [hm]
  · simp [rleRunToLiteral]

/-- A push adds at most one byte to those pending (rule R32(e)). -/
theorem rlePush_pending_le {e : Enc} (hok : e.RunOk) (w : Byte) :
    (rlePush w e).1.llen + (rlePush w e).1.cnt ≤ e.llen + e.cnt + 1 := by
  obtain ⟨hm, h⟩ | ⟨hm, -, -, h⟩ | ⟨hm, -, -, h⟩ | ⟨hm, -, hl, h⟩ | ⟨hm, -, -, h⟩ | ⟨hm, -, h⟩ | ⟨hm, -, h⟩ := rlePush_cases w e <;>
    rw [h]
  · have := hok.cnt_zero (by simp [hm])
    simp only [rleFirst, Enc.startLiteral]
    omega
  · simp only [rleExtend, Enc.appendLiteral]
    omega
  · simp only [rleLiteralCap]
    omega
  · simp only [rleLiteralToRun]
    omega
  · simp only [rleRunAfterCap]
    omega
  · rw [rleRun]
    split <;> simp only <;> omega
  · simp only [rleRunToLiteral, Enc.startLiteral]
    omega

theorem encOk_reset (len : Nat) : EncOk len Enc.reset := by constructor <;> simp [Enc.reset]

section
variable {len : Nat} {e : Enc} (h : EncOk len e)
include h

/-- Below `L` no flush is under way. -/
theorem EncOk.not_ending (hi : e.idx < len) : e.ending = false := by
  by_contra he
  have hend := (h.ending_at_end (by simpa using he)).2
  omega

theorem EncOk.started (hb : e.busy = false) : EncOk len { e with busy := true, idx := 0 } := by
  have hm := h.idle_of_not_busy hb
  have hl := h.runOk.llen_zero (by simp [hm])
  have hc := h.runOk.cnt_zero (by simp [hm])
  have he : e.ending = false := by
    by_contra he
    have hbusy := (h.ending_at_end (by simpa using he)).1
    rw [hb] at hbusy
    cases hbusy
  constructor <;> simp [hm, hl, hc, he]

end

theorem encOk_flushed (len : Nat) (e : Enc) : EncOk len e.flushed := by constructor <;> simp [Enc.flushed]

theorem EncOk.scan {s : State} (h : EncOk s.params.encL s.enc) (hb : s.enc.busy = true) (hi : s.enc.idx < s.params.encL) :
    EncOk s.params.encL (scanEnc s) := by
  obtain ⟨-, hidx, hbusy, hending⟩ := scanEnc_frame s
  have hmode : (scanEnc s).mode ≠ .idle := rlePush_mode_ne_idle _ _
  have hok : (scanEnc s).RunOk := (runOk_xdeByte h.runOk).push _
  have hpending : (scanEnc s).llen + (scanEnc s).cnt ≤ s.enc.llen + s.enc.cnt + 1 :=
    rlePush_pending_le (runOk_xdeByte h.runOk) _
  have hle := h.pending_le
  refine ⟨hok.last_pending, hok.llen_le, hok.cnt_le, hok.llen_acc, hok.cnt_rep, ?_, ?_, by omega, by omega, ?_⟩
  · simp [hbusy, hb]
  · simp [hidx, hmode]
  · simp [hending, h.not_ending hi]

/-- Registers in their ranges let ENC take its next step (rules R84, R104). -/
theorem encNext_next {s : State} (h : EncOk s.params.encL s.enc) : ∃ r, encNext s = .next r := by
  cases hb : s.enc.busy with
  | false => exact ⟨_, encNext_of_not_busy hb⟩
  | true =>
    rcases Nat.lt_or_eq_of_le h.idx_le with hi | hi
    · exact ⟨_, encNext_of_scan hb h.llen_le h.cnt_le hi⟩
    · exact ⟨_, encNext_of_flush hb h.llen_le h.cnt_le hi⟩

theorem encTurn_next {s : State} (h : EncOk s.params.encL s.enc) : ∃ t, encTurn s = .next t := by
  obtain ⟨⟨u, _ | c⟩, hr⟩ := encNext_next h
  · exact ⟨_, encTurn_of_silent hr⟩
  · cases hready : s.chan.txReady with
    | false => exact ⟨_, encTurn_of_not_ready hready hr⟩
    | true => exact ⟨_, encTurn_of_ready hready hr⟩

/-! ## The destination buffer -/

/-- A byte of `DST` has a value where one is listed. -/
theorem memValue_dst (s : State) (i : Nat) : memValue s .dst i = Memory.lookup s.dec.dst i := by
  simp only [memValue, Memory.value, unlisted, State.cells]
  cases Memory.lookup s.dec.dst i <;> rfl

theorem memRead_rxb (s : State) (i : Nat) : memRead s .rxb i = (Memory.lookup s.dec.rxb i).getD 0x00 := by
  have h := memValue_rxb s i
  rw [memValue, unlisted, Memory.value_some] at h
  exact (Option.some.inj h).symm

/-- `DstOk` by what is read. -/
theorem dstOk_iff (s : State) : DstOk s.params.decL s.dec ↔
    s.dec.cursor ≤ s.params.decL ∧ (∀ i, i < s.dec.cursor → (memValue s .dst i).isSome) ∧
      (s.dec.first = false → ∀ i, s.dec.cursor ≤ i → i < s.params.decL → memValue s .dst i = some (memRead s .rxb i)) := by
  simp only [memValue_dst, memRead_rxb]
  exact ⟨fun h => ⟨h.cursor_le, h.written, h.previous⟩, fun ⟨h1, h2, h3⟩ => ⟨h1, h2, h3⟩⟩

/-- Delta bytes at the cursor keep what stands around them. -/
theorem WritesAtCursor.dstOk {ds : List Byte} {s t : State} (w : WritesAtCursor ds s t)
    (hfits : s.dec.cursor + ds.length ≤ s.params.decL) (h : DstOk s.params.decL s.dec) : DstOk t.params.decL t.dec := by
  rw [dstOk_iff] at h ⊢
  obtain ⟨-, hwritten, hprevious⟩ := h
  rw [w.cursor, w.first, w.outside.params]
  refine ⟨hfits, fun i hi => ?_, fun hf i hi hL => ?_⟩
  · by_cases hlt : i < s.dec.cursor
    · rw [w.dst_elsewhere i (.inl hlt)]
      exact hwritten i hlt
    · have hw := w.written (i - s.dec.cursor) (by omega)
      rw [Nat.add_sub_cancel' (Nat.le_of_not_lt hlt)] at hw
      rw [hw]
      rfl
  · rw [w.dst_elsewhere i (.inr hi), w.rxb]
    exact hprevious hf i (by omega) hL

/-- The commit leaves `RXB` equal to `DST` (rule R52). -/
theorem dstOk_commitFrame {s : State} (hfull : s.dec.cursor = s.params.decL) (h : DstOk s.params.decL s.dec) :
    DstOk (commitFrame s).params.decL (commitFrame s).dec := by
  rw [dstOk_iff] at h ⊢
  obtain ⟨-, hwritten, -⟩ := h
  rw [(commitFrame_outside s).params]
  refine ⟨Nat.zero_le _, fun i hi => absurd hi (Nat.not_lt_zero i), fun _ i _ hi => ?_⟩
  obtain ⟨v, hv⟩ := Option.isSome_iff_exists.1 (hwritten i (by omega))
  rw [memValue_commitFrame_dst, memRead_commitFrame_rxb, if_pos hi, memRead, hv]
  rfl

/-! ## A chunk delivered -/

/-- What a chunk delivered does, with no fault held: it writes its delta bytes, passes `L`, commits the frame, or ends it short. -/
theorem deliver_cases (c : Chunk) {s : State} (hf : s.dec.fault = .none) :
    (c ≠ .endMark ∧ s.dec.cursor + c.size ≤ s.params.decL ∧
      deliver c s = (xddBytes s s.dec.cursor c.expand).setCursor (s.dec.cursor + c.size)) ∨
    (c ≠ .endMark ∧ s.params.decL < s.dec.cursor + c.size ∧ deliver c s = s.setFault .overrun) ∨
    (c = .endMark ∧ s.dec.cursor = s.params.decL ∧ deliver c s = commitFrame s) ∨
    (c = .endMark ∧ s.dec.cursor ≠ s.params.decL ∧ deliver c s = s.setFault .lengthMismatch) := by
  by_cases hc : c = .endMark
  · subst hc
    by_cases hfull : s.dec.cursor = s.params.decL
    · exact .inr (.inr (.inl ⟨rfl, hfull, deliver_endMark_of_full hf hfull⟩))
    · exact .inr (.inr (.inr ⟨rfl, hfull, deliver_endMark_of_short hf hfull⟩))
  · rcases Nat.lt_or_ge s.params.decL (s.dec.cursor + c.size) with hover | hfits
    · exact .inr (.inl ⟨hc, hover, deliver_of_overrun hc hf hover⟩)
    · refine .inl ⟨hc, hfits, ?_⟩
      rw [deliver_of_no_fault c hf, rld_payload hc, rldBytes_of_fits (by rwa [Chunk.expand_length]), Chunk.expand_length]

/-- A chunk never raises `MALFORMED_TAG` (rule R163). -/
theorem deliver_ne_malformedTag (c : Chunk) {s : State} (h : s.dec.fault ≠ .malformedTag) :
    (deliver c s).dec.fault ≠ .malformedTag := by
  by_cases hf : s.dec.fault = .none
  · obtain ⟨-, -, hd⟩ | ⟨-, -, hd⟩ | ⟨-, -, hd⟩ | ⟨-, -, hd⟩ := deliver_cases c hf <;> simp [hd, hf]
  · rwa [deliver_of_fault c hf]

/-- The buffers of the receiving half, its cursor and its first-frame flag between steps. -/
structure ReceiverOk (s : State) : Prop where
  dst_ok : CellsOk (unlisted .dst) s.params.decL s.dec.dst
  rxb_ok : CellsOk (unlisted .rxb) s.params.decL s.dec.rxb
  dst_state : DstOk s.params.decL s.dec

theorem ReceiverOk.of_same {s t : State} (h : ReceiverOk s) (hp : t.params = s.params) (hdst : t.dec.dst = s.dec.dst)
    (hrxb : t.dec.rxb = s.dec.rxb) (hc : t.dec.cursor = s.dec.cursor) (hf : t.dec.first = s.dec.first) : ReceiverOk t where
  dst_ok := by rw [hp, hdst]; exact h.dst_ok
  rxb_ok := by rw [hp, hrxb]; exact h.rxb_ok
  dst_state := by
    constructor
    · rw [hp, hc]
      exact h.dst_state.cursor_le
    · rw [hc, hdst]
      exact h.dst_state.written
    · rw [hp, hc, hf, hdst, hrxb]
      exact h.dst_state.previous

theorem ReceiverOk.deliver {s : State} (h : ReceiverOk s) (c : Chunk) (hf : s.dec.fault = .none) : ReceiverOk (deliver c s) := by
  obtain ⟨hc, hfits, hd⟩ | ⟨-, -, hd⟩ | ⟨-, hfull, hd⟩ | ⟨-, -, hd⟩ := deliver_cases c hf
  · have hlen : s.dec.cursor + c.expand.length ≤ s.params.decL := by rwa [Chunk.expand_length]
    have w := deliver_writesAtCursor hc hf hfits
    refine ⟨?_, ?_, w.dstOk hlen h.dst_state⟩
    · rw [hd]
      simpa using cellsOk_xddBytes c.expand s s.dec.cursor h.dst_ok hlen
    · rw [hd]
      simpa using h.rxb_ok
  · rw [hd]
    exact h.of_same rfl rfl rfl rfl rfl
  · rw [hd]
    refine ⟨?_, ?_, dstOk_commitFrame hfull h.dst_state⟩
    · rw [(commitFrame_outside s).params, commitFrame_dst]
      exact h.dst_ok
    · rw [(commitFrame_outside s).params]
      exact cellsOk_copyDstToRxb s.params.decL s h.rxb_ok (Nat.le_refl _)
  · rw [hd]
    exact h.of_same rfl rfl rfl rfl rfl

theorem count_encDone_frameEvents (c : Chunk) (s : State) : (frameEvents c s).count .encDone = 0 := by
  unfold frameEvents
  split <;> rfl

/-! ## The deserializer -/

/-- A chunk completed leaves the deserializer in phase `TAG0`, consistent with whatever fault it raised (rule R140). -/
theorem desOk_of_delivered {f : DecFault} {d : Des} (hp : d.phase = .tag0) (hc : d.cnt = 0) (hf : f ≠ .malformedTag) :
    DesOk f d := by
  constructor <;> simp [hp, hc, hf]

/-- A reserved tag leaves it in phase `TAG1` with the tag (rule R141). -/
theorem desOk_of_malformed {d : Des} (hp : d.phase = .tag1) (hc : d.cnt = 0) (htag : classifyTag d.tag = .reserved) :
    DesOk .malformedTag d := by
  constructor <;> simp [hp, hc, htag]

/-! ## The invariant, half by half -/

section
variable {s t : State} (h : s.Inv)
include h

theorem State.Inv.receiverOk : ReceiverOk s := ⟨h.dst_ok, h.rxb_ok, h.dst_state⟩

/-- The invariant does not look at the channel and the schedule. -/
theorem State.Inv.of_same (hp : t.params = s.params) (hf : t.frame = s.frame) (he : t.enc = s.enc) (hd : t.dec = s.dec)
    (hev : t.events = s.events) (hs : t.starts = s.starts) : t.Inv where
  frame_ok := by rw [hp, hf]; exact h.frame_ok
  txb_ok := by rw [hp, he]; exact h.txb_ok
  dst_ok := by rw [hp, hd]; exact h.dst_ok
  rxb_ok := by rw [hp, hd]; exact h.rxb_ok
  enc_ok := by rw [hp, he]; exact h.enc_ok
  des_ok := by rw [hd]; exact h.des_ok
  dst_state := by rw [hp, hd]; exact h.dst_state
  starts_cover := by rw [hev, he, hs]; exact h.starts_cover

/-- A step of the sending half. -/
theorem State.Inv.of_sender (hout : SameOutsideSender s t) (henc : EncOk s.params.encL t.enc)
    (htxb : CellsOk (unlisted .txb) s.params.encL t.enc.txb)
    (hev : t.events.count .encDone + (if t.enc.busy then 1 else 0) ≤ s.starts) : t.Inv where
  frame_ok := by rw [hout.params, hout.frame]; exact h.frame_ok
  txb_ok := by rwa [hout.params]
  dst_ok := by rw [hout.params, hout.dec]; exact h.dst_ok
  rxb_ok := by rw [hout.params, hout.dec]; exact h.rxb_ok
  enc_ok := by rwa [hout.params]
  des_ok := by rw [hout.dec]; exact h.des_ok
  dst_state := by rw [hout.params, hout.dec]; exact h.dst_state
  starts_cover := by rwa [hout.starts]

/-- A step of the receiving half. -/
theorem State.Inv.of_receiver (hp : t.params = s.params) (hf : t.frame = s.frame) (he : t.enc = s.enc) (hs : t.starts = s.starts)
    (hev : t.events.count .encDone = s.events.count .encDone) (hr : ReceiverOk t) (hdes : DesOk t.dec.fault t.dec.des) : t.Inv where
  frame_ok := by rw [hp, hf]; exact h.frame_ok
  txb_ok := by rw [hp, he]; exact h.txb_ok
  dst_ok := hr.dst_ok
  rxb_ok := hr.rxb_ok
  enc_ok := by rw [hp, he]; exact h.enc_ok
  des_ok := hdes
  dst_state := hr.dst_state
  starts_cover := by rw [hev, he, hs]; exact h.starts_cover

/-! ## A turn of ENC keeps it -/

/-- The next step of ENC keeps the registers and `TXB`, and `enc_done` comes with the end of an encode (rules R99, R196). -/
theorem State.Inv.encNext {u : State} {c : Option Chunk} (hn : encNext s = .next (u, c)) :
    EncOk s.params.encL u.enc ∧ CellsOk (unlisted .txb) s.params.encL u.enc.txb ∧
      (s.events ++ c.toList.flatMap takenEvents).count .encDone + (if u.enc.busy then 1 else 0) ≤ s.starts := by
  have hcover := h.starts_cover
  cases hb : s.enc.busy with
  | false =>
    rw [encNext_of_not_busy hb] at hn
    cases hn
    exact ⟨h.enc_ok, h.txb_ok, by simpa using hcover⟩
  | true =>
    rw [hb, if_pos rfl] at hcover
    rcases Nat.lt_or_eq_of_le h.enc_ok.idx_le with hi | hi
    · rw [encNext_scanEnc hb h.enc_ok.runOk hi] at hn
      cases hn
      have hsilent : (rlePush (xdeByte s).2 (xdeByte s).1.enc).2.toList.flatMap takenEvents = [] :=
        List.flatMap_eq_nil_iff.2 fun c hc => if_neg (rlePush_ne_end (Option.mem_toList.1 hc))
      refine ⟨h.enc_ok.scan hb hi, ?_, ?_⟩
      · rw [State.setEnc_enc, scanEnc, (rlePush_frame _ _).1]
        exact h.txb_ok.write hi _
      · rw [hsilent, List.append_nil]
        exact (Nat.add_le_add_left (by split <;> simp) _).trans hcover
    · cases hc : (if s.enc.ending then none else flushPending s.enc) with
      | none =>
        have hend : s.enc.ending = true ∨ flushPending s.enc = none := by
          cases he : s.enc.ending <;> simp_all
        rw [encNext_end hb h.enc_ok hi hend] at hn
        cases hn
        refine ⟨encOk_flushed _ _, h.txb_ok, ?_⟩
        rw [List.count_append]
        exact hcover
      | some k =>
        have he : s.enc.ending = false := by
          cases he : s.enc.ending <;> simp_all
        rw [he] at hc
        rw [encNext_pending hb h.enc_ok hi he hc] at hn
        cases hn
        refine ⟨h.enc_ok.ending_true hb hi, h.txb_ok, ?_⟩
        simp only [Option.toList_some, List.flatMap_cons, List.flatMap_nil, takenEvents, if_neg (flushPending_ne_end hc),
          List.append_nil, State.setEnc_enc, hb, if_true]
        exact hcover

theorem State.Inv.encTurn (ht : Machine.encTurn s = .next t) : t.Inv := by
  obtain rfl | hn | ⟨u, c, hn, -, rfl⟩ := encTurnInto_cases ht
  · exact h
  · obtain ⟨henc, htxb, hev⟩ := h.encNext hn
    have hu := encNext_writes_enc hn
    rw [Option.toList_none, List.flatMap_nil, List.append_nil] at hev
    exact h.of_sender (by rw [hu]; constructor <;> rfl) henc htxb (by rw [hu]; exact hev)
  · obtain ⟨henc, htxb, hev⟩ := h.encNext hn
    have hu := encNext_writes_enc hn
    rw [Option.toList_some, List.flatMap_singleton] at hev
    rw [chunkTaken_eq]
    exact h.of_sender (by rw [hu]; constructor <;> rfl) henc htxb (by rw [hu]; exact hev)

/-! ## A turn of DEC keeps it -/

theorem State.Inv.decTurn (ht : Machine.decTurn s = .next t) : t.Inv := by
  by_cases hcan : decCanTake s = true
  · obtain ⟨x, rest, ho⟩ := offers_of_canTake hcan
    have hdes := h.des_ok
    rw [ho.no_fault] at hdes
    obtain ⟨d, hd⟩ | ⟨d, i, hd⟩ := desAccept_cases hdes x
    · rw [decTurn_of_accept_none ho hd.accept] at ht
      cases ht
      refine h.of_receiver rfl rfl rfl rfl rfl (h.receiverOk.of_same rfl rfl rfl rfl rfl) ?_
      rw [State.setDes_dec_fault, State.setBytes_dec, ho.no_fault]
      exact hd.ok
    · rw [decTurn_of_accept_some ho hd.accept] at ht
      cases hchunk : chunkOf i with
      | none =>
        rw [exec_of_reserved hd.wf hchunk, malformedTag_of_none (s := (s.setBytes rest).setDes d) ho.no_fault] at ht
        cases ht
        exact h.of_receiver rfl rfl rfl rfl rfl (h.receiverOk.of_same rfl rfl rfl rfl rfl)
          (desOk_of_malformed (hd.phase.trans (if_pos hchunk)) hd.cnt (hd.reserved hchunk))
      | some c =>
        have hne : chunkOf i ≠ none := by simp [hchunk]
        rw [exec_of_chunk hchunk] at ht
        cases ht
        have hr : ReceiverOk ((s.setBytes rest).setDes d) := h.receiverOk.of_same rfl rfl rfl rfl rfl
        refine h.of_receiver (deliver_params _ _) (deliver_frame _ _) (deliver_enc _ _) (deliver_starts _ _) ?_
          (hr.deliver c ho.no_fault) ?_
        · rw [deliver_events, List.count_append, count_encDone_frameEvents]
          rfl
        · rw [deliver_des]
          exact desOk_of_delivered (hd.phase.trans (if_neg hne)) hd.cnt (deliver_ne_malformedTag c (by simp [ho.no_fault]))
  · rw [decTurn_of_not_canTake (by simpa using hcan)] at ht
    cases ht
    exact h

end

/-! ## The moves of the hosts and of the channel keep it -/

theorem makeMove_writeFrame {s : State} {index : Nat} (byte : Byte) (hb : s.enc.busy = false) (hi : index < s.params.encL) :
    makeMove (.writeFrame index byte) s = .next (memWrite s .frame index byte) := by
  rw [makeMove, writeFrame, if_neg (by simp [hb]), if_pos hi]

/-- A write of `FRAME` is made between encodes and below `L` (rules R40, R187). -/
theorem makeMove_writeFrame_eq_next {s t : State} {index : Nat} {byte : Byte}
    (h : makeMove (.writeFrame index byte) s = .next t) :
    s.enc.busy = false ∧ index < s.params.encL ∧ t = memWrite s .frame index byte := by
  rw [makeMove, writeFrame] at h
  split at h
  · cases h
  · rename_i hb
    split at h
    · cases h
      exact ⟨by simpa using hb, ‹_›, rfl⟩
    · cases h

theorem makeMove_encStart_of_not_busy {s : State} (h : s.enc.busy = false) :
    makeMove .encStart s = .next { s with enc := { s.enc with busy := true, idx := 0 }, starts := s.starts + 1 } := by
  rw [makeMove, encStart_of_not_busy (s := s.countStart) h]
  rfl

theorem makeMove_encStart_of_busy {s : State} (h : s.enc.busy = true) :
    makeMove .encStart s = .next { s with starts := s.starts + 1 } := by
  rw [makeMove, encStart_of_busy (s := s.countStart) h]
  rfl

section
variable {s t : State} (h : s.Inv)
include h

theorem State.Inv.makeMove {m : Move} (ht : Machine.makeMove m s = .next t) : t.Inv := by
  cases m with
  | encTurn => exact h.encTurn ht
  | decTurn => exact h.decTurn ht
  | emptyChannel | setTxReady level | setRxValid level =>
    cases ht
    exact h.of_same rfl rfl rfl rfl rfl rfl
  | writeFrame index byte =>
    obtain ⟨-, hi, rfl⟩ := makeMove_writeFrame_eq_next ht
    exact ⟨h.frame_ok.write hi _, h.txb_ok, h.dst_ok, h.rxb_ok, h.enc_ok, h.des_ok, h.dst_state, h.starts_cover⟩
  | encReset =>
    rw [makeMove_encReset] at ht
    cases ht
    exact h.of_sender (by constructor <;> rfl) (encOk_reset _) (cellsOk_nil _ _)
      ((Nat.le_add_right _ _).trans h.starts_cover)
  | decReset =>
    rw [makeMove_decReset] at ht
    cases ht
    exact h.of_receiver rfl rfl rfl rfl rfl ⟨cellsOk_nil _ _, cellsOk_nil _ _, ⟨Nat.zero_le _, nofun, nofun⟩⟩
      (DesOk.of_tag0 rfl rfl)
  | encStart =>
    have hcover := h.starts_cover
    cases hb : s.enc.busy with
    | true =>
      rw [makeMove_encStart_of_busy hb] at ht
      cases ht
      exact ⟨h.frame_ok, h.txb_ok, h.dst_ok, h.rxb_ok, h.enc_ok, h.des_ok, h.dst_state, hcover.trans (Nat.le_succ _)⟩
    | false =>
      rw [makeMove_encStart_of_not_busy hb] at ht
      cases ht
      rw [hb] at hcover
      exact ⟨h.frame_ok, h.txb_ok, h.dst_ok, h.rxb_ok, h.enc_ok.started hb, h.des_ok, h.dst_state, Nat.succ_le_succ hcover⟩

theorem State.Inv.setSchedule (ms : List Move) : (s.setSchedule ms).Inv := h.of_same rfl rfl rfl rfl rfl rfl

end

/-- Settles O53: by the agent that moves. -/
theorem stepKeepsInvariant : Obligations.StepKeepsInvariant := by
  unfold Obligations.StepKeepsInvariant
  intro s t h ht
  obtain ⟨ms, hd⟩ | ⟨ms, he⟩ | rfl | ⟨m, ms, -, -, -, hm⟩ := step_cases ht
  · exact (h.setSchedule ms).decTurn hd
  · exact (h.setSchedule ms).encTurn he
  · exact h
  · exact (h.setSchedule ms).makeMove hm

/-- Settles O52: nothing is listed, nothing is pending, and the cursor is at 0. -/
theorem resetMeetsInvariant : Obligations.ResetMeetsInvariant := by
  unfold Obligations.ResetMeetsInvariant
  intro p
  exact ⟨cellsOk_nil _ _, cellsOk_nil _ _, cellsOk_nil _ _, cellsOk_nil _ _, encOk_reset _, .of_tag0 rfl rfl,
    ⟨Nat.zero_le _, nofun, nofun⟩, Nat.le_refl _⟩

/-! ## What the invariant rules out -/

theorem lt_two_pow_cursorWidth {n len : Nat} (h : n ≤ len) : n < 2 ^ Config.cursorWidth len :=
  (Nat.lt_succ_of_le h).trans_le (Nat.le_pow_clog (by decide) _)

/-- Settles O54: both counters are at most their half's frame length. -/
theorem countersFitTheirWidth : Obligations.CountersFitTheirWidth := by
  unfold Obligations.CountersFitTheirWidth
  intro s h
  exact ⟨lt_two_pow_cursorWidth h.dst_state.cursor_le, lt_two_pow_cursorWidth h.enc_ok.idx_le⟩

/-- With its registers in their ranges ENC never stops the machine, DEC never does, and of the hosts' moves only the write of
`FRAME` can. -/
theorem step_next_or_writeFrame {s : State} (h : s.Inv) :
    (∃ t, step s = .next t) ∨ ∃ index byte ms, s.schedule = .writeFrame index byte :: ms ∧
      step s = writeFrame index byte (s.setSchedule ms) := by
  have hdec : ∀ u : State, ∃ t, decTurn u = .next t := fun u => (decTurn_withSender u u.enc u.frame).imp fun _ h => h.1
  cases hs : s.schedule with
  | nil =>
    rw [step_unscheduled hs, autoMove]
    refine .inl ?_
    split
    · exact hdec s
    · split
      · exact encTurn_next h.enc_ok
      · exact ⟨s, rfl⟩
  | cons m ms =>
    rw [step_scheduled hs]
    cases m with
    | writeFrame index byte => exact .inr ⟨index, byte, ms, rfl, rfl⟩
    | encTurn => exact .inl (encTurn_next (h.setSchedule ms).enc_ok)
    | decTurn => exact .inl (hdec _)
    | encStart | encReset | decReset | emptyChannel | setTxReady level | setRxValid level => exact .inl ⟨_, rfl⟩

theorem pendingBytes_of_not_ending {e : Enc} (h : e.ending = false) : e.pendingBytes = e.flushBytes := by
  simp [Enc.pendingBytes, Enc.flushBytes, h]

/-- A step of the flush takes what is pending and leaves nothing (rules R32(e), R99). -/
theorem expand_flush (e : Enc) : (rleFlushNext e).2.expand ++ (rleFlushNext e).1.pendingBytes = e.pendingBytes := by
  have hend : e.flushed.pendingBytes = [] := by
    rw [pendingBytes_of_not_ending rfl, flushBytes_of_idle rfl]
  cases he : e.ending with
  | true =>
    have hnone : e.pendingBytes = [] := by rw [Enc.pendingBytes, if_pos he]
    rw [rleFlushNext_of_end (.inl he), hnone]
    exact hend
  | false =>
    rw [pendingBytes_of_not_ending he, Enc.flushBytes]
    cases hc : flushPending e with
    | none =>
      rw [rleFlushNext_of_end (.inr hc)]
      exact hend
    | some c =>
      rw [rleFlushNext_of_pending he hc]
      simp [Enc.pendingBytes, expandAll]

/-- Settles O34: ENC's registers never pass their caps, and each push and each step of the flush keeps the bytes pushed. -/
theorem capOverflowUnreachable : Obligations.CapOverflowUnreachable := by
  unfold Obligations.CapOverflowUnreachable
  intro s h
  refine ⟨fun f hf => ?_, fun r hr => ?_, fun hi w => ?_, expand_flush s.enc⟩
  · obtain ⟨t, ht⟩ | ⟨index, byte, ms, hs, hw⟩ := step_next_or_writeFrame h
    · rw [ht] at hf
      cases hf
    · rw [hw, writeFrame] at hf
      split at hf
      · cases hf
      · split at hf
        · cases hf
        · exact ⟨index, byte, by rw [hs]; rfl, Nat.le_of_not_lt ‹_›⟩
  · obtain ⟨t, ht⟩ | ⟨index, byte, ms, hs, hw⟩ := step_next_or_writeFrame h
    · rw [ht] at hr
      cases hr
    · rw [hw, writeFrame] at hr
      split at hr
      · exact ⟨index, byte, by rw [hs]; rfl, ‹_›⟩
      · split at hr <;> cases hr
  · have he := h.enc_ok.not_ending hi
    have he' : (rlePush w s.enc).1.ending = false := by
      obtain ⟨-, -, -, -, hending, -⟩ := rlePush_frame w s.enc
      rw [hending, he]
    rw [pendingBytes_of_not_ending he, pendingBytes_of_not_ending he']
    exact expand_push h.enc_ok.runOk w

/-! ## Nothing to do -/

theorem canTake_of_no_bytes {s : State} (h : s.chan.bytes = []) : decCanTake s = false := by simp [decCanTake, h]

theorem step_of_quiet {s : State} (hs : s.schedule = []) (hb : s.chan.bytes = []) (he : s.enc.busy = false) :
    step s = .next s := by
  rw [step_unscheduled hs, autoMove, canTake_of_no_bytes hb, he]
  rfl

/-- Settles O51: at the end of a run every start is matched by an `enc_done`, so the invariant leaves no encode in progress. -/
theorem nothingToDoKeepsState : Obligations.NothingToDoKeepsState := by
  unfold Obligations.NothingToDoKeepsState
  refine ⟨fun s h => decTurn_of_not_canTake ?_, fun s h => encTurn_of_not_busy h, fun p => step_of_quiet rfl rfl rfl,
    fun s n h hover => ?_⟩
  · obtain hb | hv := h
    · exact canTake_of_no_bytes hb
    · simp [decCanTake, hv]
  · obtain ⟨hstarts, hdone, hbytes, -⟩ := hover
    have hidle : s.enc.busy = false := by
      have hcover := h.starts_cover
      by_contra hb
      rw [if_pos (by simpa using hb)] at hcover
      omega
    exact ⟨hidle, fun hs => step_of_quiet hs hbytes hidle⟩

end Sys2Proof.Machine
end

section
/-! What a step leaves alone (00_scope.md rules R9, R41, 10_state.md section 5, 20_memory.md rules R50 to R52, 60_exceptions.md rule
R168), agent by agent. -/

namespace Sys2Proof.Machine

/-! ## What a chunk does to the buffers -/

/-- `RXB` changes only with `frame_done` (rule R52). -/
theorem deliver_rxb (c : Chunk) (s : State) :
    (deliver c s).dec.rxb = s.dec.rxb ∨ (deliver c s).events = s.events ++ [.frameDone] := by
  by_cases hf : s.dec.fault = .none
  · obtain ⟨-, -, hd⟩ | ⟨-, -, hd⟩ | ⟨-, -, hd⟩ | ⟨-, -, hd⟩ := deliver_cases c hf <;> rw [hd]
    · exact .inl (by simp)
    · exact .inl rfl
    · exact .inr (commitFrame_events s)
    · exact .inl rfl
  · rw [deliver_of_fault c hf]
    exact .inl rfl

/-- `DST` changes only where the cursor passes (rules R51, R116). -/
theorem deliver_dst (c : Chunk) (s : State) :
    (∀ i, i < s.dec.cursor → memValue (deliver c s) .dst i = memValue s .dst i) ∧
      ((deliver c s).dec.cursor ≤ s.dec.cursor → ∀ i, memValue (deliver c s) .dst i = memValue s .dst i) := by
  by_cases hf : s.dec.fault = .none
  · obtain ⟨hc, hfits, -⟩ | ⟨-, -, hd⟩ | ⟨-, -, hd⟩ | ⟨-, -, hd⟩ := deliver_cases c hf
    · have w := deliver_writesAtCursor hc hf hfits
      rw [w.cursor]
      exact ⟨fun i hi => w.dst_elsewhere i (.inl hi), fun hle i => w.dst_elsewhere i (by omega)⟩
    · rw [hd]
      exact ⟨fun i _ => memValue_congr (sp := .dst) rfl i, fun _ i => memValue_congr (sp := .dst) rfl i⟩
    · rw [hd]
      exact ⟨fun i _ => memValue_commitFrame_dst s i, fun _ i => memValue_commitFrame_dst s i⟩
    · rw [hd]
      exact ⟨fun i _ => memValue_congr (sp := .dst) rfl i, fun _ i => memValue_congr (sp := .dst) rfl i⟩
  · rw [deliver_of_fault c hf]
    exact ⟨fun _ _ => rfl, fun _ _ => rfl⟩

/-! ## The turns of the two halves -/

/-- A turn of ENC writes the sending half and puts bytes behind those in flight, and nothing else (rule R41). -/
theorem encTurn_outside {s t : State} (h : encTurn s = .next t) :
    SameOutsideSender s t ∧ ∃ more, t.chan.bytes = s.chan.bytes ++ more := by
  obtain rfl | hn | ⟨u, c, hn, -, rfl⟩ := encTurnInto_cases h
  · exact ⟨by constructor <;> rfl, [], (List.append_nil _).symm⟩
  · rw [encNext_writes_enc hn]
    exact ⟨by constructor <;> rfl, [], (List.append_nil _).symm⟩
  · rw [chunkTaken_eq, encNext_writes_enc hn]
    exact ⟨by constructor <;> rfl, ser c, rfl⟩

/-- A turn of DEC that changes anything takes a byte with no fault held, and then delivers a chunk or leaves the buffers and the
cursor alone (rules R135, R140, R141). -/
theorem decTurn_effect {s t : State} (h : decTurn s = .next t) :
    t = s ∨ s.dec.fault = .none ∧ ∃ u : State, u.params = s.params ∧ u.frame = s.frame ∧ u.enc = s.enc ∧ u.events = s.events ∧
      u.dec.rxb = s.dec.rxb ∧ u.dec.dst = s.dec.dst ∧ u.dec.cursor = s.dec.cursor ∧ (t = u ∨ ∃ c, t = deliver c u) := by
  obtain rfl | ⟨bs, d, hf, rfl | rfl | ⟨c, rfl⟩⟩ := decTurn_cases h
  · exact .inl rfl
  · exact .inr ⟨hf, (s.setBytes bs).setDes d, rfl, rfl, rfl, rfl, rfl, rfl, rfl, .inl rfl⟩
  · exact .inr ⟨hf, ((s.setBytes bs).setDes d).setFault .malformedTag, rfl, rfl, rfl, rfl, rfl, rfl, rfl, .inl rfl⟩
  · have hdeliver := deliver_of_no_fault (s := (s.setBytes bs).setDes d) c hf
    exact .inr ⟨hf, (s.setBytes bs).setDes d, rfl, rfl, rfl, rfl, rfl, rfl, rfl, .inr ⟨c, hdeliver.symm⟩⟩

theorem decTurn_outside {s t : State} (h : decTurn s = .next t) : t.params = s.params ∧ t.frame = s.frame ∧ t.enc = s.enc := by
  obtain rfl | ⟨-, u, hp, hf, he, -, -, -, -, rfl | ⟨c, rfl⟩⟩ := decTurn_effect h
  · exact ⟨rfl, rfl, rfl⟩
  · exact ⟨hp, hf, he⟩
  · exact ⟨(deliver_params c u).trans hp, (deliver_frame c u).trans hf, (deliver_enc c u).trans he⟩

theorem decTurn_rxb {s t : State} (h : decTurn s = .next t) :
    t.dec.rxb = s.dec.rxb ∨ t.events = s.events ++ [.frameDone] := by
  obtain rfl | ⟨-, u, -, -, -, hev, hrxb, -, -, rfl | ⟨c, rfl⟩⟩ := decTurn_effect h
  · exact .inl rfl
  · exact .inl hrxb
  · rw [← hrxb, ← hev]
    exact deliver_rxb c u

theorem decTurn_dst {s t : State} (h : decTurn s = .next t) :
    (∀ i, i < s.dec.cursor → memValue t .dst i = memValue s .dst i) ∧
      (t.dec.cursor ≤ s.dec.cursor → ∀ i, memValue t .dst i = memValue s .dst i) := by
  obtain rfl | ⟨-, u, -, -, -, -, -, hdst, hcur, hu⟩ := decTurn_effect h
  · exact ⟨fun _ _ => rfl, fun _ _ => rfl⟩
  · have hsame : ∀ i, memValue u .dst i = memValue s .dst i := memValue_congr (sp := .dst) hdst
    simp only [← hsame, ← hcur]
    obtain rfl | ⟨c, rfl⟩ := hu
    · exact ⟨fun _ _ => rfl, fun _ _ => rfl⟩
    · exact deliver_dst c u

/-! ## The moves of the hosts and of the channel -/

/-- What a move that is no turn of a half leaves alone (rule R41). -/
structure HostMoveEffect (m : Move) (s t : State) : Prop where
  params : t.params = s.params
  one_half : t.enc = s.enc ∨ t.dec = s.dec
  dec : m ≠ .decReset → t.dec = s.dec
  frame : t.frame = s.frame ∨ ∃ index byte, m = .writeFrame index byte
  bytes : m ≠ .emptyChannel → t.chan.bytes = s.chan.bytes
  events : t.events = s.events

theorem makeMove_host {m : Move} {s t : State} (hd : m ≠ .decTurn) (he : m ≠ .encTurn) (h : makeMove m s = .next t) :
    HostMoveEffect m s t := by
  cases m with
  | decTurn => exact absurd rfl hd
  | encTurn => exact absurd rfl he
  | emptyChannel =>
    cases h
    exact ⟨rfl, .inl rfl, fun _ => rfl, .inl rfl, fun hne => absurd rfl hne, rfl⟩
  | setTxReady level | setRxValid level =>
    cases h
    exact ⟨rfl, .inl rfl, fun _ => rfl, .inl rfl, fun _ => rfl, rfl⟩
  | writeFrame index byte =>
    obtain ⟨-, -, rfl⟩ := makeMove_writeFrame_eq_next h
    exact ⟨rfl, .inl rfl, fun _ => rfl, .inr ⟨index, byte, rfl⟩, fun _ => rfl, rfl⟩
  | encReset =>
    rw [makeMove_encReset] at h
    cases h
    exact ⟨rfl, .inr rfl, fun _ => rfl, .inl rfl, fun _ => rfl, rfl⟩
  | decReset =>
    rw [makeMove_decReset] at h
    cases h
    exact ⟨rfl, .inl rfl, fun hne => absurd rfl hne, .inl rfl, fun _ => rfl, rfl⟩
  | encStart =>
    cases hb : s.enc.busy with
    | true =>
      rw [makeMove_encStart_of_busy hb] at h
      cases h
      exact ⟨rfl, .inl rfl, fun _ => rfl, .inl rfl, fun _ => rfl, rfl⟩
    | false =>
      rw [makeMove_encStart_of_not_busy hb] at h
      cases h
      exact ⟨rfl, .inr rfl, fun _ => rfl, .inl rfl, fun _ => rfl, rfl⟩

/-! ## A step -/

/-- Every step that answers a next state is ENC's or no change, DEC's, or a host's or the channel's. -/
theorem step_effect {s t : State} (h : step s = .next t) :
    (t.params = s.params ∧ t.frame = s.frame ∧ t.dec = s.dec ∧ ∃ more, t.chan.bytes = s.chan.bytes ++ more) ∨
    (∃ ms, decTurn (s.setSchedule ms) = .next t) ∨
    (∃ m ms, s.schedule.head? = some m ∧ HostMoveEffect m (s.setSchedule ms) t) := by
  obtain ⟨ms, hd⟩ | ⟨ms, he⟩ | rfl | ⟨m, ms, hs, hd, he, hm⟩ := step_cases h
  · exact .inr (.inl ⟨ms, hd⟩)
  · obtain ⟨hout, more⟩ := encTurn_outside he
    exact .inl ⟨hout.params, hout.frame, hout.dec, more⟩
  · exact .inl ⟨rfl, rfl, rfl, [], (List.append_nil _).symm⟩
  · exact .inr (.inr ⟨m, ms, by rw [hs]; rfl, makeMove_host hd he hm⟩)

/-- Settles O55: only DEC's turn and the reset of its half write `RXB`. -/
theorem baselineChangesOnlyAtFrameEnd : Obligations.BaselineChangesOnlyAtFrameEnd := by
  unfold Obligations.BaselineChangesOnlyAtFrameEnd
  intro s t h
  obtain ⟨-, -, hdec, -⟩ | ⟨ms, hd⟩ | ⟨m, ms, hs, hm⟩ := step_effect h
  · exact .inl (by rw [hdec])
  · exact (decTurn_rxb hd).imp_right .inl
  · by_cases hreset : m = .decReset
    · exact .inr (.inr (hreset ▸ hs))
    · exact .inl (by rw [hm.dec hreset]; rfl)

/-- Settles O56: with a fault held DEC's turn changes nothing, ENC's sends behind the bytes in flight. -/
theorem faultHoldsUntilReset : Obligations.FaultHoldsUntilReset := by
  unfold Obligations.FaultHoldsUntilReset
  intro s t hf hreset h
  obtain ⟨-, -, hdec, more⟩ | ⟨ms, hd⟩ | ⟨m, ms, hs, hm⟩ := step_effect h
  · exact ⟨hdec, fun _ => more⟩
  · rw [decTurn_of_not_canTake (by simp [decCanTake, rxReady, hf])] at hd
    cases hd
    exact ⟨rfl, fun _ => ⟨[], (List.append_nil _).symm⟩⟩
  · rw [hs] at hreset ⊢
    exact ⟨hm.dec fun hne => hreset (congrArg some hne),
      fun hempty => ⟨[], by rw [hm.bytes fun hne => hempty (congrArg some hne)]; exact (List.append_nil _).symm⟩⟩

/-- Settles O57: only DEC's turn writes `DST`, where the cursor passes. -/
theorem destinationStableWindow : Obligations.DestinationStableWindow := by
  unfold Obligations.DestinationStableWindow
  intro s t h hreset
  have hsame : t.dec = s.dec → ∀ i, memValue t .dst i = memValue s .dst i :=
    fun hdec => memValue_congr (sp := .dst) (congrArg Dec.dst hdec)
  obtain ⟨-, -, hdec, -⟩ | ⟨ms, hd⟩ | ⟨m, ms, hs, hm⟩ := step_effect h
  · exact ⟨fun i _ => hsame hdec i, fun _ i => hsame hdec i⟩
  · have hsched : ∀ i, memValue (s.setSchedule ms) .dst i = memValue s .dst i := memValue_congr (sp := .dst) rfl
    simpa only [hsched, State.setSchedule_dec] using decTurn_dst hd
  · have hdec : t.dec = s.dec := hm.dec fun hne => hreset (hne ▸ hs)
    exact ⟨fun i _ => hsame hdec i, fun _ i => hsame hdec i⟩

/-- Settles O58: ENC's step leaves the receiving half, DEC's the sending half, and a host's at least one of them. -/
theorem eachStepWritesOneHalf : Obligations.EachStepWritesOneHalf := by
  unfold Obligations.EachStepWritesOneHalf
  intro s t h
  obtain ⟨hp, hf, hdec, -⟩ | ⟨ms, hd⟩ | ⟨m, ms, hs, hm⟩ := step_effect h
  · exact ⟨.inr hdec, hp, .inl hf⟩
  · obtain ⟨hp, hf, he⟩ := decTurn_outside hd
    exact ⟨.inl he, hp, .inl hf⟩
  · exact ⟨hm.one_half, hm.params, hm.frame.imp_right fun ⟨index, byte, hw⟩ => ⟨index, byte, hw ▸ hs⟩⟩

/-! ## The hosts -/

/-- Settles O49: each reset installs one half. -/
theorem resetTouchesOneHalf : Obligations.ResetTouchesOneHalf := by
  unfold Obligations.ResetTouchesOneHalf
  exact fun s => ⟨⟨_, makeMove_encReset s, rfl, rfl, rfl, rfl, rfl, rfl, rfl⟩,
    ⟨_, makeMove_decReset s, rfl, rfl, rfl, rfl, rfl, rfl, rfl⟩⟩

/-- Settles O50: the write is made, refused, or out of range. -/
theorem hostWritesFrameBetweenEncodes : Obligations.HostWritesFrameBetweenEncodes := by
  unfold Obligations.HostWritesFrameBetweenEncodes
  intro s index byte
  refine ⟨fun hb hi => ⟨_, makeMove_writeFrame byte hb hi, memValue_memWrite_self s .frame index byte, fun j hj => ?_, rfl⟩,
    fun hb => if_pos hb, fun hb hi => ?_⟩
  · rw [memValue_memWrite, if_neg (fun h => hj h.2)]
  · rw [makeMove, writeFrame, if_neg (by simp [hb]), if_neg (Nat.not_lt.2 hi)]

end Sys2Proof.Machine
end

section
/-! The chunk-level composition follows the wire-level one, and the direct one follows the chunk-level one, move by move
(70_reset_and_hazards.md rule R195). -/

namespace Sys2Proof.Machine

/-! ## Wire and chunks at the same point -/

theorem accepted_of_tag0 {d : Des} (hp : d.phase = .tag0) : d.accepted = [] := by simp [Des.accepted, hp]

section
variable {s : State} {c : ChunkSystem} (h : WireMatchesChunks s c)
include h

theorem WireMatchesChunks.eq_over : s = c.sys.over s := by
  rw [State.over, h.params, h.dec]

theorem WireMatchesChunks.sys_eq_under : c.sys = s.under c.sys := by
  rw [State.under, ← h.params, ← h.frame, ← h.enc]

theorem WireMatchesChunks.fault : c.sys.dec.fault = s.dec.fault := by
  simpa using congrArg Dec.fault h.dec

theorem WireMatchesChunks.epoch : c.sys.dec.epoch = s.dec.epoch := by
  simpa using congrArg Dec.epoch h.dec

/-- A turn of ENC: both channels take its chunk or neither does. -/
theorem WireMatchesChunks.encTurn {t : State} (ht : Machine.encTurn s = .next t) :
    ∃ c', WireMatchesChunks t c' ∧ (c' = c ∨ chunkEncTurn c = .next c') := by
  obtain rfl | hn | ⟨u, k, hn, hr, rfl⟩ := encTurnInto_cases ht
  · exact ⟨c, h, .inl rfl⟩
  · have hn' := encNext_under c.sys hn
    rw [← h.sys_eq_under] at hn'
    rw [encNext_writes_enc hn] at hn' ⊢
    exact ⟨{ c with sys := (s.setEnc t.enc).under c.sys },
      ⟨rfl, rfl, rfl, h.dec, h.events, h.starts, h.levels, h.flight⟩, .inr (chunkEncTurn_of_silent hn')⟩
  · have hn' := encNext_under c.sys hn
    rw [← h.sys_eq_under] at hn'
    rw [encNext_writes_enc hn] at hn' ⊢
    refine ⟨_, ?_, .inr (chunkEncTurn_of_ready (h.levels.1.trans hr) hn')⟩
    rw [chunkTaken_eq, chunkTaken_eq]
    refine ⟨rfl, rfl, rfl, h.dec, congrArg (· ++ takenEvents k) h.events, h.starts, h.levels, ?_⟩
    have hflight := congrArg (· ++ ser k) h.flight
    simp only [List.append_assoc] at hflight
    rw [serAll_append, serAll_cons, serAll_nil, List.append_nil]
    exact hflight

/-- The bytes accepted and the next one, where they are an instruction's, are the oldest chunk's. -/
theorem WireMatchesChunks.oldest {x : Byte} {rest : List Byte} {i : Instr} (hb : s.chan.bytes = x :: rest) (hw : i.wf = true)
    (henc : encode i = s.dec.des.accepted ++ [x]) :
    ∃ k ks, c.chunks = k :: ks ∧ rest = serAll ks ∧ chunkOf i ≠ none ∧ ∀ u, exec i u = .next (deliver k u) := by
  have hflight : encode i ++ rest = serAll c.chunks := by
    rw [← h.flight, hb, henc, List.append_assoc]
    rfl
  cases hc : c.chunks with
  | nil =>
    rw [hc, serAll_nil] at hflight
    exact absurd (List.append_eq_nil_iff.1 hflight).1 (encode_ne_nil hw)
  | cons k ks =>
    obtain ⟨j, hwj, hencj, hchunk, hexec⟩ := ser_eq_encode k
    rw [hc, serAll_cons, ← hencj] at hflight
    obtain ⟨rfl, hrest⟩ := encode_append_inj hw hwj hflight
    exact ⟨k, ks, rfl, hrest, hchunk, hexec⟩

/-- A turn of DEC: a byte inside a chunk is matched by no move, the last byte of a chunk by its delivery. -/
theorem WireMatchesChunks.decTurn {t : State} (hok : DesOk s.dec.fault s.dec.des) (ht : Machine.decTurn s = .next t) :
    ∃ c', WireMatchesChunks t c' ∧ (c' = c ∨ chunkDecTurn c = c') := by
  by_cases hcan : decCanTake s = true
  · obtain ⟨x, rest, ho⟩ := offers_of_canTake hcan
    rw [ho.no_fault] at hok
    obtain ⟨d, hd⟩ | ⟨d, i, hd⟩ := desAccept_cases hok x
    · rw [decTurn_of_accept_none ho hd.accept] at ht
      cases ht
      refine ⟨c, ⟨h.params, h.frame, h.enc, ?_, h.events, h.starts, h.levels, ?_⟩, .inl rfl⟩
      · exact congrArg (fun e : Dec => { e with des := d }) h.dec
      · rw [← h.flight, ho.bytes, State.setDes_dec_des, hd.accepted, List.append_assoc]
        rfl
    · obtain ⟨k, ks, hchunks, hrest, hchunk, hexec⟩ := h.oldest ho.bytes hd.wf hd.form
      rw [decTurn_of_accept_some ho hd.accept, hexec] at ht
      cases ht
      have hover : (s.setBytes rest).setDes d = c.sys.over ((s.setBytes rest).setDes d) :=
        congrArg (fun u : State => (u.setBytes rest).setDes d) h.eq_over
      have hphase : d.phase = .tag0 := hd.phase.trans (if_neg hchunk)
      refine ⟨⟨deliver k c.sys, ks⟩, ?_, .inr ?_⟩
      · rw [hover, deliver_over]
        refine ⟨rfl, (deliver_frame k c.sys).trans h.frame, (deliver_enc k c.sys).trans h.enc, rfl, ?_,
          (deliver_starts k c.sys).trans h.starts, ?_, ?_⟩
        · rw [deliver_events, h.events]
          rfl
        · rw [deliver_chan]
          exact h.levels
        · exact (congrArg (· ++ rest) (accepted_of_tag0 hphase)).trans hrest
      · have hc : c = ⟨c.sys, k :: ks⟩ := by rw [← hchunks]
        rw [hc]
        exact chunkDecTurn_of_canTake (h.levels.2.trans ho.valid) (h.fault.trans ho.no_fault)
  · rw [decTurn_of_not_canTake (by simpa using hcan)] at ht
    cases ht
    exact ⟨c, h, .inl rfl⟩

end

theorem onSys_of_next {m : Move} {c : ChunkSystem} {t : State} (h : makeMove m c.sys = .next t) :
    onSys m c = .next { c with sys := t } := by
  rw [onSys, h]

/-- Settles O43: the halves and the hosts make the same move; between the bytes of a chunk the chunk-level machine waits. -/
theorem chunkLevelFollowsWire : Obligations.ChunkLevelFollowsWire := by
  unfold Obligations.ChunkLevelFollowsWire
  intro s t c m hinv h hboundary ht
  cases m with
  | encTurn => exact h.encTurn ht
  | decTurn =>
    obtain ⟨c', hc', hmove⟩ := h.decTurn hinv.des_ok ht
    exact ⟨c', hc', hmove.imp_right (congrArg Host.Outcome.next)⟩
  | writeFrame index byte =>
    obtain ⟨hb, hi, rfl⟩ := makeMove_writeFrame_eq_next ht
    refine ⟨{ c with sys := memWrite c.sys .frame index byte }, ?_,
      .inr (onSys_of_next (makeMove_writeFrame byte (by rwa [h.enc]) (by rwa [h.params])))⟩
    exact ⟨h.params, congrArg (Memory.write none · index byte) h.frame, h.enc, h.dec, h.events, h.starts, h.levels, h.flight⟩
  | encStart =>
    cases hb : s.enc.busy with
    | true =>
      rw [makeMove_encStart_of_busy hb] at ht
      cases ht
      refine ⟨_, ?_, .inr (onSys_of_next (makeMove_encStart_of_busy (by rwa [h.enc])))⟩
      exact ⟨h.params, h.frame, h.enc, h.dec, h.events, congrArg (· + 1) h.starts, h.levels, h.flight⟩
    | false =>
      rw [makeMove_encStart_of_not_busy hb] at ht
      cases ht
      refine ⟨_, ?_, .inr (onSys_of_next (makeMove_encStart_of_not_busy (by rwa [h.enc])))⟩
      exact ⟨h.params, h.frame, congrArg (fun e : Enc => { e with busy := true, idx := 0 }) h.enc, h.dec, h.events,
        congrArg (· + 1) h.starts, h.levels, h.flight⟩
  | encReset =>
    rw [makeMove_encReset] at ht
    cases ht
    refine ⟨{ c with sys := { c.sys with enc := Enc.reset } }, ?_, .inr rfl⟩
    exact ⟨h.params, h.frame, rfl, h.dec, h.events, h.starts, h.levels, h.flight⟩
  | decReset =>
    rw [makeMove_decReset] at ht
    cases ht
    refine ⟨{ c with sys := { c.sys with dec := Dec.reset (c.sys.dec.epoch + 1) } }, ?_, .inr rfl⟩
    have hflight := h.flight
    rw [accepted_of_tag0 (hboundary (.inl rfl))] at hflight
    exact ⟨h.params, h.frame, h.enc, by rw [h.epoch], h.events, h.starts, h.levels, hflight⟩
  | emptyChannel =>
    cases ht
    refine ⟨{ c with chunks := [] }, ?_, .inr rfl⟩
    exact ⟨h.params, h.frame, h.enc, h.dec, h.events, h.starts, h.levels,
      (congrArg (· ++ []) (accepted_of_tag0 (hboundary (.inr rfl))))⟩
  | setTxReady level =>
    cases ht
    exact ⟨{ c with sys := c.sys.setTxReady level },
      ⟨h.params, h.frame, h.enc, h.dec, h.events, h.starts, ⟨rfl, h.levels.2⟩, h.flight⟩, .inr rfl⟩
  | setRxValid level =>
    cases ht
    exact ⟨{ c with sys := c.sys.setRxValid level },
      ⟨h.params, h.frame, h.enc, h.dec, h.events, h.starts, ⟨h.levels.1, rfl⟩, h.flight⟩, .inr rfl⟩

end Sys2Proof.Machine
end

section
/-! The direct composition follows the chunk-level one, move by move (70_reset_and_hazards.md rule R195). -/

namespace Sys2Proof.Machine

/-! ## Chunks one after the other -/

/-- The events that chunks delivered in order raise. -/
def frameEventsAll : List Chunk → State → List PortEvent
  | [], _ => []
  | c :: cs, s => frameEvents c s ++ frameEventsAll cs (deliver c s)

theorem deliverAll_over (cs : List Chunk) (s o : State) :
    deliverAll cs (s.over o) = (deliverAll cs s).over { o with events := o.events ++ frameEventsAll cs s } := by
  induction cs generalizing s o with
  | nil =>
    rw [frameEventsAll, List.append_nil]
    rfl
  | cons c cs ih => rw [deliverAll_cons, deliver_over, ih, deliverAll_cons, frameEventsAll, List.append_assoc]

theorem deliverAll_concat (cs : List Chunk) (c : Chunk) (s : State) :
    deliverAll (cs ++ [c]) s = deliver c (deliverAll cs s) := deliverAll_append cs [c] s

theorem frameEventsAll_append (cs ds : List Chunk) (s : State) :
    frameEventsAll (cs ++ ds) s = frameEventsAll cs s ++ frameEventsAll ds (deliverAll cs s) := by
  induction cs generalizing s with
  | nil => rfl
  | cons c cs ih => rw [List.cons_append, frameEventsAll, ih, frameEventsAll, List.append_assoc, deliverAll_cons]

theorem frameEventsAll_concat (cs : List Chunk) (c : Chunk) (s : State) :
    frameEventsAll (cs ++ [c]) s = frameEventsAll cs s ++ frameEvents c (deliverAll cs s) := by
  rw [frameEventsAll_append, frameEventsAll, frameEventsAll, List.append_nil]

section
variable (cs : List Chunk) (s : State)

@[simp] theorem deliverAll_params : (deliverAll cs s).params = s.params := by
  induction cs generalizing s with
  | nil => rfl
  | cons c cs ih => rw [deliverAll_cons, ih, deliver_params]

@[simp] theorem deliverAll_des : (deliverAll cs s).dec.des = s.dec.des := by
  rw [show deliverAll cs s = _ from deliverAll_over cs s s]
  rfl

end

/-- What chunks do to a state whose receiving half is another one's: the same to that half, and the same events (rules R3, R9). -/
theorem deliverAll_of_same {s t : State} (hp : t.params = s.params) (hd : t.dec = s.dec) (cs : List Chunk) :
    deliverAll cs t = { t with dec := (deliverAll cs s).dec, events := t.events ++ frameEventsAll cs s } := by
  have ht : t = s.over t := by rw [State.over, ← hp, ← hd]
  have hdes : t.dec.des = (deliverAll cs s).dec.des := by rw [deliverAll_des, hd]
  have hparams : t.params = (deliverAll cs s).params := by rw [deliverAll_params, hp]
  refine (congrArg (deliverAll cs) ht).trans ((deliverAll_over cs s t).trans ?_)
  rw [State.over, ← hparams]
  show _ = _
  rw [hdes]

theorem deliverAll_events (cs : List Chunk) (s : State) : (deliverAll cs s).events = s.events ++ frameEventsAll cs s := by
  rw [deliverAll_of_same (s := s) (t := s) rfl rfl]

theorem deliver_of_same {s t : State} (hp : t.params = s.params) (hd : t.dec = s.dec) (c : Chunk) :
    deliver c t = { t with dec := (deliver c s).dec, events := t.events ++ frameEvents c s } := by
  have h := deliverAll_of_same hp hd [c]
  rwa [frameEventsAll, frameEventsAll, List.append_nil] at h

/-! ## A turn of ENC into the chunk channel -/

/-- Everything a turn of ENC that answers a next state can do: wait, complete without a chunk, or put its chunk into the
channel. -/
theorem chunkEncTurn_cases {c c' : ChunkSystem} (h : chunkEncTurn c = .next c') :
    c' = c ∨ ∃ e, c' = ⟨c.sys.setEnc e, c.chunks⟩ ∧ encNext c.sys = .next (c.sys.setEnc e, none) ∨
      ∃ k, c' = ⟨chunkTaken k (c.sys.setEnc e), c.chunks ++ [k]⟩ ∧ encNext c.sys = .next (c.sys.setEnc e, some k) := by
  unfold chunkEncTurn at h
  split at h
  case h_1 u hn =>
    cases h
    have hu := encNext_writes_enc hn
    rw [hu] at hn ⊢
    exact .inr ⟨u.enc, .inl ⟨rfl, hn⟩⟩
  case h_2 u k hn =>
    split at h
    · cases h
      have hu := encNext_writes_enc hn
      rw [hu] at hn ⊢
      exact .inr ⟨u.enc, .inr ⟨k, rfl, hn⟩⟩
    · cases h
      exact .inl rfl
  all_goals cases h

/-! ## A host's move and the sending half -/

/-- The same sending half, `FRAME`, parameters and count of starts. -/
structure SameSender (s t : State) : Prop where
  params : t.params = s.params
  frame : t.frame = s.frame
  enc : t.enc = s.enc
  starts : t.starts = s.starts

/-- A move of a host or of the channel is open, and does the same to the sending half, wherever the sending half is the same. -/
theorem SameSender.makeMove {m : Move} {s t o : State} (h : SameSender s o) (hd : m ≠ .decTurn) (he : m ≠ .encTurn)
    (ht : makeMove m s = .next t) : ∃ u, Machine.makeMove m o = .next u ∧ SameSender t u := by
  cases m with
  | decTurn => exact absurd rfl hd
  | encTurn => exact absurd rfl he
  | emptyChannel | decReset | setTxReady | setRxValid =>
    cases ht
    exact ⟨_, rfl, h.params, h.frame, h.enc, h.starts⟩
  | encReset =>
    cases ht
    exact ⟨_, rfl, h.params, h.frame, rfl, h.starts⟩
  | writeFrame index byte =>
    obtain ⟨hb, hi, rfl⟩ := makeMove_writeFrame_eq_next ht
    exact ⟨_, makeMove_writeFrame byte (by rwa [h.enc]) (by rwa [h.params]), h.params,
      congrArg (Memory.write none · index byte) h.frame, h.enc, h.starts⟩
  | encStart =>
    cases hb : s.enc.busy with
    | true =>
      rw [makeMove_encStart_of_busy hb] at ht
      cases ht
      exact ⟨_, makeMove_encStart_of_busy (by rwa [h.enc]), h.params, h.frame, h.enc, congrArg (· + 1) h.starts⟩
    | false =>
      rw [makeMove_encStart_of_not_busy hb] at ht
      cases ht
      exact ⟨_, makeMove_encStart_of_not_busy (by rwa [h.enc]), h.params, h.frame,
        congrArg (fun e : Enc => { e with busy := true, idx := 0 }) h.enc, congrArg (· + 1) h.starts⟩

theorem onSys_eq_next {m : Move} {c c' : ChunkSystem} (h : onSys m c = .next c') :
    ∃ t, makeMove m c.sys = .next t ∧ c' = ⟨t, c.chunks⟩ := by
  unfold onSys at h
  split at h
  case h_1 t ht =>
    cases h
    exact ⟨t, ht, rfl⟩
  all_goals cases h

/-! ## Chunks in flight and none at the same point -/

section
variable {c : ChunkSystem} {d : State} (h : ChunksMatchDirect c d)
include h

theorem ChunksMatchDirect.under_eq (hf : d.dec.fault = .none) : c.sys.under d = d := by
  rw [State.under, ← h.params, ← h.frame hf, ← h.enc hf]

/-- Both receiving halves and event records as they were, and the same of the rest wherever no fault is held. -/
theorem ChunksMatchDirect.of_same {t d' : State} (hp : t.params = c.sys.params) (hdec : t.dec = c.sys.dec)
    (hev : t.events = c.sys.events) (hp' : d'.params = d.params) (hdec' : d'.dec = d.dec) (hev' : d'.events = d.events)
    (hsame : d.dec.fault = .none → d'.frame = t.frame ∧ d'.enc = t.enc ∧ d'.starts = t.starts) :
    ChunksMatchDirect ⟨t, c.chunks⟩ d' := by
  have hall := deliverAll_of_same hp hdec c.chunks
  rw [← hdec'] at hsame
  refine ⟨hp'.trans (h.params.trans hp.symm), ?_, fun hf => (hsame hf).1, fun hf => (hsame hf).2.1, fun hf => (hsame hf).2.2,
    fun hf e => ?_⟩
  · rw [hall, hdec', h.dec]
  · rw [hall, hev', hev, ← deliverAll_events, h.events (hdec' ▸ hf)]

/-- A turn of ENC: the chunk that one puts in flight, the other delivers (log entry 23). -/
theorem ChunksMatchDirect.encTurn {c' : ChunkSystem} (hc : chunkEncTurn c = .next c') :
    ∃ d', ChunksMatchDirect c' d' ∧ (d' = d ∨ directEncTurn d = .next d') := by
  obtain rfl | ⟨e, ⟨rfl, hn⟩ | ⟨k, rfl, hn⟩⟩ := chunkEncTurn_cases hc
  · exact ⟨d, h, .inl rfl⟩
  · have hn' := encNext_under d hn
    by_cases hf : d.dec.fault = .none
    · rw [h.under_eq hf] at hn'
      exact ⟨_, h.of_same (t := c.sys.setEnc e) (d' := (c.sys.setEnc e).under d) rfl rfl rfl h.params.symm rfl rfl
        fun _ => ⟨rfl, rfl, h.starts hf⟩, .inr (directEncTurn_of_silent hn')⟩
    · exact ⟨d, h.of_same (t := c.sys.setEnc e) rfl rfl rfl rfl rfl rfl fun hno => absurd hno hf, .inl rfl⟩
  · have hn' := encNext_under d hn
    have hsent := deliverAll_of_same (s := c.sys)
      (t := { c.sys.setEnc e with events := c.sys.events ++ takenEvents k }) rfl rfl (c.chunks ++ [k])
    rw [deliverAll_concat c.chunks k c.sys, frameEventsAll_concat] at hsent
    by_cases hf : d.dec.fault = .none
    · rw [h.under_eq hf] at hn'
      have hparams : c.sys.params = (deliverAll c.chunks c.sys).params := (deliverAll_params _ _).symm
      refine ⟨_, ?_, .inr (directEncTurn_of_no_fault hf hn')⟩
      rw [chunkTaken_eq, chunkTaken_eq,
        deliver_of_same (s := deliverAll c.chunks c.sys) (t := (c.sys.setEnc e).under d) hparams h.dec]
      refine ⟨rfl, (congrArg State.dec hsent).symm, fun _ => rfl, fun _ => rfl, fun _ => h.starts hf, fun _ ev => ?_⟩
      have hcount := h.events hf ev
      rw [deliverAll_events, List.count_append] at hcount
      refine Eq.trans ?_ (congrArg (fun u : State => u.events.count ev) hsent).symm
      simp only [State.under, List.count_append, hcount]
      omega
    · rw [chunkTaken_eq]
      refine ⟨d, ⟨h.params, ?_, fun hno => absurd hno hf, fun hno => absurd hno hf, fun hno => absurd hno hf,
        fun hno => absurd hno hf⟩, .inl rfl⟩
      refine Eq.trans ?_ (congrArg State.dec hsent).symm
      rw [deliver_of_fault k (h.dec ▸ hf)]
      exact h.dec

/-- A turn of DEC: the direct machine has delivered the chunk already. -/
theorem ChunksMatchDirect.decTurn : ChunksMatchDirect (chunkDecTurn c) d := by
  obtain ⟨s, _ | ⟨k, ks⟩⟩ := c
  · exact h
  · by_cases hcan : chunkCanTake ⟨s, k :: ks⟩ = true
    · rw [show chunkDecTurn ⟨s, k :: ks⟩ = ⟨deliver k s, ks⟩ by simp [chunkDecTurn, hcan]]
      exact ⟨h.params.trans (deliver_params k s).symm, h.dec, fun hf => (h.frame hf).trans (deliver_frame k s).symm,
        fun hf => (h.enc hf).trans (deliver_enc k s).symm, fun hf => (h.starts hf).trans (deliver_starts k s).symm, h.events⟩
    · rwa [chunkDecTurn_of_not_canTake (by simpa using hcan)]

/-- A host's move that is no reset of the receiving half. -/
theorem ChunksMatchDirect.hostMove {m : Move} {c' : ChunkSystem} (hd : m ≠ .decTurn) (he : m ≠ .encTurn) (hr : m ≠ .decReset)
    (hc : onSys m c = .next c') : ∃ d', ChunksMatchDirect c' d' ∧ (d' = d ∨ makeMove m d = .next d') := by
  obtain ⟨t, ht, rfl⟩ := onSys_eq_next hc
  have heff := makeMove_host hd he ht
  by_cases hf : d.dec.fault = .none
  · have hsame : SameSender c.sys d := ⟨h.params, h.frame hf, h.enc hf, h.starts hf⟩
    obtain ⟨d', hd', hsame'⟩ := hsame.makeMove hd he ht
    have heff' := makeMove_host hd he hd'
    exact ⟨d', h.of_same heff.params (heff.dec hr) heff.events heff'.params (heff'.dec hr) heff'.events
      fun _ => ⟨hsame'.frame, hsame'.enc, hsame'.starts⟩, .inr hd'⟩
  · exact ⟨d, h.of_same heff.params (heff.dec hr) heff.events rfl rfl rfl fun hno => absurd hno hf, .inl rfl⟩

/-- A reset of the receiving half with nothing in flight. -/
theorem ChunksMatchDirect.decReset {c' : ChunkSystem} (hnone : c.chunks = []) (hf : d.dec.fault = .none)
    (hc : onSys .decReset c = .next c') : ∃ d', ChunksMatchDirect c' d' ∧ makeMove .decReset d = .next d' := by
  obtain ⟨s, ks⟩ := c
  obtain rfl : ks = [] := hnone
  cases hc
  exact ⟨resetDec d, ⟨h.params, congrArg (fun e : Dec => Dec.reset (e.epoch + 1)) h.dec, fun _ => h.frame hf, fun _ => h.enc hf,
    fun _ => h.starts hf, fun _ => h.events hf⟩, rfl⟩

end

/-- Settles O44: hosts and halves make the same move; with a fault held the direct machine stands still. -/
theorem directFollowsChunkLevel : Obligations.DirectFollowsChunkLevel := by
  unfold Obligations.DirectFollowsChunkLevel
  intro c c' d m h hboundary hmove
  cases m with
  | encTurn => exact h.encTurn hmove
  | decTurn =>
    cases hmove
    exact ⟨d, h.decTurn, .inl rfl⟩
  | decReset =>
    obtain ⟨hnone, hf⟩ := hboundary (.inl rfl)
    obtain ⟨d', hd', hreset⟩ := h.decReset hnone hf hmove
    exact ⟨d', hd', .inr hreset⟩
  | emptyChannel =>
    obtain ⟨s, ks⟩ := c
    obtain ⟨rfl, -⟩ : ks = [] ∧ _ := hboundary (.inr rfl)
    cases hmove
    exact ⟨d, h, .inl rfl⟩
  | writeFrame index byte => exact h.hostMove (m := .writeFrame index byte) nofun nofun nofun hmove
  | encStart => exact h.hostMove (m := .encStart) nofun nofun nofun hmove
  | encReset => exact h.hostMove (m := .encReset) nofun nofun nofun hmove
  | setTxReady level => exact h.hostMove (m := .setTxReady level) nofun nofun nofun hmove
  | setRxValid level => exact h.hostMove (m := .setRxValid level) nofun nofun nofun hmove

end Sys2Proof.Machine
end

section
/-! One frame from a frame boundary (42_rle_decoder.md rule R119, 70_reset_and_hazards.md rule R195): over the wire, by the chunk and
by the direct call. -/

namespace Sys2Proof.Machine

/-! ## The start of a frame -/

/-- Between frames the registers of the sending half are in their ranges (rule R32). -/
theorem State.AtBoundary.encOk {s : State} (h : s.AtBoundary) : EncOk s.params.encL s.enc := by
  obtain ⟨hm, hl, hc, hi, he⟩ := h.idle
  constructor <;> simp [hm, hl, hc, hi, he]

/-- The baseline of the sending half is never free, so what it reads as is in its cells (rule R181). -/
theorem memRead_txb_congr {s t : State} (h : t.enc.txb = s.enc.txb) (i : Nat) : memRead t .txb i = memRead s .txb i := by
  have hv : memValue t .txb i = memValue s .txb i := memValue_congr (sp := .txb) h i
  rwa [memValue_txb, memValue_txb, Option.some.injEq] at hv

/-! ## The events and the fault of a frame -/

theorem frameEventsAll_payload {cs : List Chunk} (h : ∀ c, c ∈ cs → c ≠ .endMark) (s : State) : frameEventsAll cs s = [] := by
  induction cs generalizing s with
  | nil => rfl
  | cons c cs ih =>
    rw [frameEventsAll, ih (fun k hk => h k (List.mem_cons_of_mem c hk)),
      show frameEvents c s = [] from if_neg fun hc => h c List.mem_cons_self hc.2.1, List.append_nil]

/-- `End` that raises no fault raises `frame_done` (rule R114). -/
theorem frameEvents_endMark {s : State} (h : (deliver .endMark s).dec.fault = .none) :
    frameEvents .endMark s = [.frameDone] := by
  by_cases hf : s.dec.fault = .none
  · by_cases hfull : s.dec.cursor = s.params.decL
    · exact if_pos ⟨hf, rfl, hfull⟩
    · rw [deliver_endMark_of_short hf hfull] at h
      cases h
  · rw [deliver_of_fault _ hf] at h
    exact absurd h hf

theorem frameEventsAll_encodeFrame {s : State} (h : (deliverAll (encodeFrame s).chunks s).dec.fault = .none) :
    frameEventsAll (encodeFrame s).chunks s = [.frameDone] := by
  obtain ⟨cs, hcs, hne, -⟩ := encodeFrame_eq s
  rw [hcs] at h ⊢
  rw [deliverAll_concat] at h
  rw [frameEventsAll_concat, frameEventsAll_payload hne, frameEvents_endMark h]
  rfl

theorem deliverAll_ne_malformedTag (cs : List Chunk) {s : State} (h : s.dec.fault ≠ .malformedTag) :
    (deliverAll cs s).dec.fault ≠ .malformedTag := by
  induction cs generalizing s with
  | nil => exact h
  | cons c cs ih => exact ih (deliver_ne_malformedTag c h)

/-! ## Over the wire -/

/-- The state in which a frame has been encoded and its bytes have been delivered over the wire, up to a fault. -/
def State.afterFrame (s : State) (ms : List Move) (e : Enc) (d : Des) (bytes : List Byte) : State :=
  { s with
    enc := e
    chan := { s.chan with bytes := bytes }
    dec := { (deliverAll (encodeFrame s).chunks s).dec with des := d }
    events := s.events ++ [.encDone] ++ frameEventsAll (encodeFrame s).chunks s
    starts := s.starts + 1
    schedule := ms }

/-- One encode, then the delivery of its bytes. -/
theorem run_frame {s : State} {e : Enc} (ms : List Move) (h : s.AtBoundary) (hr : s.chan.txReady = true)
    (hv : s.chan.rxValid = true) (hruns : EncRuns (s.params.encL + 2) (s.started []) (encodeFrame s).chunks e) :
    ∃ d bytes, d.phase = .tag0 ∧ d.cnt = 0 ∧ ((deliverAll (encodeFrame s).chunks s).dec.fault = .none → bytes = []) ∧
      Host.Core.run Sys2Proof.core (s.params.encL + 3 + (serAll (encodeFrame s).chunks).length)
        (s.setSchedule (.encStart :: (List.replicate (s.params.encL + 2) .encTurn ++
          (List.replicate (serAll (encodeFrame s).chunks).length .decTurn ++ ms)))) = .next (s.afterFrame ms e d bytes) := by
  let turns : List Move := List.replicate (serAll (encodeFrame s).chunks).length .decTurn ++ ms
  let o := s.setSchedule (.encStart :: (List.replicate (s.params.encL + 2) .encTurn ++ turns))
  have hencode : Host.Core.run Sys2Proof.core (s.params.encL + 3) o = .next (o.sent turns e) :=
    run_encode (s := o) h.not_busy hruns hr rfl
  have hall := deliverAll_of_same (s := s) (t := o.sent turns e) rfl rfl (encodeFrame s).chunks
  obtain ⟨d, bytes, hp, hc, hrun, hnone, -⟩ := wireDeliversLikeChunks (o.sent turns e) (encodeFrame s).chunks [] ms h.phase.1
    h.phase.2 h.no_fault hv (by rw [List.append_nil]; exact congrArg (· ++ serAll (encodeFrame s).chunks) h.channel) rfl
  rw [hall] at hrun hnone
  exact ⟨d, bytes, hp, hc, hnone, (run_add_of_next _ _ hencode).trans hrun⟩

/-! ## The round trip -/

/-- With the halves in agreement, a decoder's addition undoes the encoder's (rules R102, R119). -/
theorem deliverAll_encodeFrame {s : State} (h : s.Synced) (hf : s.dec.fault = .none) (hc : s.dec.cursor = 0) :
    (∀ i, i < s.params.encL → memValue (deliverAll (encodeFrame s).chunks s) .dst i = some (memRead s .frame i) ∧
      memRead (deliverAll (encodeFrame s).chunks s) .rxb i = memRead s .frame i) ∧
    (deliverAll (encodeFrame s).chunks s).dec.cursor = 0 ∧ (deliverAll (encodeFrame s).chunks s).dec.first = false ∧
    (deliverAll (encodeFrame s).chunks s).dec.fault = .none := by
  obtain ⟨hlen, hstrap⟩ := h.params
  obtain ⟨cs, hcs, hne, hexp⟩ := encodeFrame_eq s
  have hxor : decXorActive s = encXorActive s := by rw [decXorActive, encXorActive, h.first, hstrap]
  have hsize : (expandAll cs).length = s.params.encL := by rw [hexp, deltaStream_readAll, List.length_map, List.length_range]
  obtain ⟨hdst, hrxb, hcur, hfirst, hfault, -⟩ := wellFormedFrameDecodes s cs hf hc hne (hsize.trans hlen)
  rw [hcs]
  refine ⟨fun i hi => ?_, hcur, hfirst, hfault⟩
  have hbyte : (expandAll cs)[i]'(hsize ▸ hi) = deltaByte (encXorActive s) (memRead s .frame i) (memRead s .txb i) := by
    simp [hexp, deltaStream_readAll]
  have hvalue : memValue (deliverAll (cs ++ [.endMark]) s) .dst i = some (memRead s .frame i) := by
    rw [hdst i (hsize ▸ hi), hbyte, hxor, ← h.baselines i hi, deltaByte]
    split
    · rw [BitVec.xor_assoc, BitVec.xor_self, BitVec.xor_zero]
    · rfl
  refine ⟨hvalue, ?_⟩
  rw [hrxb i (hlen ▸ hi), memRead, hvalue, Option.getD_some]

/-- Settles O46: the chunks of the frame expand to its delta bytes, which the receiving half turns back into the frame. -/
theorem frameRoundTrip : Obligations.FrameRoundTrip := by
  unfold Obligations.FrameRoundTrip
  intro s ms hsync hb hr hv hs
  obtain ⟨e, hruns, hleaves⟩ := encRuns_started hb.not_busy hb.encOk
  obtain ⟨hmem, hcur, hfirst, hfault⟩ := deliverAll_encodeFrame hsync hb.no_fault hb.cursor
  obtain ⟨d, bytes, hp, hc, hnone, hrun⟩ := run_frame ms hb hr hv hruns
  obtain rfl := hnone hfault
  have hevents : (s.afterFrame ms e d []).events = s.events ++ [.encDone, .frameDone] := by
    rw [State.afterFrame, frameEventsAll_encodeFrame hfault, List.append_assoc]
    rfl
  have hdst : ∀ i, i < s.params.encL → memValue (s.afterFrame ms e d []) .dst i = some (memRead s .frame i) :=
    fun i hi => (memValue_congr (sp := .dst) rfl i).trans (hmem i hi).1
  have htxb : ∀ i, i < s.params.encL → memRead (s.afterFrame ms e d []) .txb i = memRead s .frame i :=
    fun i hi => (memRead_txb_congr (s := s.setEnc e) rfl i).trans (hleaves.txb_frame i hi)
  have hrxb : ∀ i, i < s.params.encL → memRead (s.afterFrame ms e d []) .rxb i = memRead s .frame i :=
    fun i hi => (memRead_congr (sp := .rxb) rfl rfl i).trans (hmem i hi).2
  refine ⟨s.afterFrame ms e d [], ?_, fun i hi => ⟨hdst i hi, htxb i hi, hrxb i hi⟩, ?_, ?_, hleaves.first, hfirst, hevents, rfl,
    rfl, rfl, fun n hend => ?_⟩
  · rw [← hrun]
    simp only [List.append_assoc, List.cons_append] at hs
    exact congrArg _ (congrArg s.setSchedule hs)
  · exact ⟨hsync.params, hleaves.first.trans hfirst.symm, fun i hi => (htxb i hi).trans (hrxb i hi).symm⟩
  · exact ⟨hleaves.busy, ⟨hleaves.mode, hleaves.llen, hleaves.cnt, hleaves.idx, hleaves.ending⟩, rfl, ⟨hp, hc⟩, hcur, hfault⟩
  · obtain ⟨⟨hstarts, hdone, -, -⟩, hframes, -⟩ := hend
    refine ⟨⟨congrArg (· + 1) hstarts, ?_, rfl, hp⟩, ?_, hfault⟩
    · rw [hevents, List.count_append, hdone]
      rfl
    · rw [hevents, List.count_append, hframes]
      rfl

end Sys2Proof.Machine
end

section
/-! One frame in the three compositions (70_reset_and_hazards.md rule R195): the chunk-level and the direct machine run the chunks that
the wire-level machine sends. -/

namespace Sys2Proof.Machine

/-! ## Runs of any machine -/

theorem core_run_succ {M : Host.Core} {s t : M.State} (n : Nat) (h : M.step s = .next t) : M.run (n + 1) s = M.run n t := by
  rw [Host.Core.run, h]

theorem core_run_add {M : Host.Core} {s t : M.State} (m n : Nat) (h : M.run m s = .next t) : M.run (m + n) s = M.run n t := by
  induction m generalizing s with
  | zero =>
    cases h
    rw [Nat.zero_add]
  | succ m ih =>
    rw [Nat.succ_add]
    cases hs : M.step s with
    | next u =>
      rw [core_run_succ m hs] at h
      rw [core_run_succ _ hs, ih h]
    | fault | refused =>
      rw [Host.Core.run, hs] at h
      cases h

/-! ## The chunk-level machine -/

theorem chunkRun_succ {c c' : ChunkSystem} (n : Nat) (h : chunkStep c = .next c') :
    Host.Core.run chunkCore (n + 1) c = Host.Core.run chunkCore n c' := core_run_succ (M := chunkCore) (s := c) (t := c') n h

/-- The schedule a chunk is delivered under does not matter. -/
theorem deliverAll_setSchedule (cs : List Chunk) (s : State) (ms ms' : List Move) :
    (deliverAll cs (s.setSchedule ms)).setSchedule ms' = (deliverAll cs s).setSchedule ms' := by
  have h := deliverAll_of_same (s := s) (t := s.setSchedule ms) rfl rfl cs
  have h' := deliverAll_of_same (s := s) (t := s) rfl rfl cs
  exact (congrArg (State.setSchedule · ms') h).trans (congrArg (State.setSchedule · ms') h').symm

/-- Turns of ENC, the chunk channel ready: the chunks go behind those in flight. -/
theorem run_chunkEncTurns {n : Nat} {s : State} {cs : List Chunk} {e : Enc} (ms : List Move) (h : EncRuns n s cs e)
    (hr : s.chan.txReady = true) (hs : s.schedule = List.replicate n .encTurn ++ ms) (ks : List Chunk) :
    Host.Core.run chunkCore n ⟨s, ks⟩ =
      .next ⟨{ s with enc := e, events := s.events ++ cs.flatMap takenEvents, schedule := ms }, ks ++ cs⟩ := by
  induction n generalizing s cs ks with
  | zero =>
    cases h
    rw [← show s.schedule = ms from hs, List.flatMap_nil, List.append_nil, List.append_nil]
    rfl
  | succ n ih =>
    obtain _ | ⟨hnext, hrest⟩ := h
    rename_i e₁ c cs
    let o := s.setSchedule (List.replicate n .encTurn ++ ms)
    have hnext' : encNext o = .next (o.setEnc e₁, c) := encNext_under o hnext
    have hstep : chunkStep ⟨s, ks⟩ = chunkEncTurn ⟨o, ks⟩ := chunkStep_scheduled (c := ⟨s, ks⟩) hs
    cases c with
    | none =>
      rw [chunkEncTurn_of_silent (c := ⟨o, ks⟩) hnext'] at hstep
      rw [chunkRun_succ n hstep]
      exact ih (s := o.setEnc e₁) (hrest.of_same rfl rfl rfl) hr rfl ks
    | some c =>
      rw [chunkEncTurn_of_ready (c := ⟨o, ks⟩) hr hnext', chunkTaken_eq] at hstep
      rw [chunkRun_succ n hstep]
      refine (ih (s := { o.setEnc e₁ with events := s.events ++ takenEvents c }) (hrest.of_same rfl rfl rfl) hr rfl
        (ks ++ [c])).trans ?_
      simp only [Option.toList_some, List.flatMap_append, List.flatMap_cons, List.flatMap_nil, List.append_nil, List.append_assoc]
      rfl

theorem chunkStep_decTurn {s : State} {ms : List Move} (ks : List Chunk) (h : s.schedule = .decTurn :: ms) :
    chunkStep ⟨s, ks⟩ = .next (chunkDecTurn ⟨s.setSchedule ms, ks⟩) := chunkStep_scheduled (c := ⟨s, ks⟩) h

/-- Turns of DEC while a fault is held change nothing (rule R168). -/
theorem run_chunkDecTurns_of_fault (ms : List Move) (ks : List Chunk) (n : Nat) {s : State} (hf : s.dec.fault ≠ .none)
    (hs : s.schedule = List.replicate n .decTurn ++ ms) :
    Host.Core.run chunkCore n ⟨s, ks⟩ = .next ⟨s.setSchedule ms, ks⟩ := by
  induction n generalizing s with
  | zero =>
    rw [← show s.schedule = ms from hs]
    rfl
  | succ n ih =>
    have hstep := chunkStep_decTurn ks hs
    rw [chunkDecTurn_of_not_canTake (by simp [chunkCanTake, rxReady, hf])] at hstep
    rw [chunkRun_succ n hstep]
    exact ih (s := s.setSchedule _) hf rfl

/-- As many turns of DEC as there are chunks in flight deliver them, up to a fault. -/
theorem run_chunkDecTurns (ms : List Move) (ks : List Chunk) {s : State} (hv : s.chan.rxValid = true)
    (hs : s.schedule = List.replicate ks.length .decTurn ++ ms) :
    ∃ left, Host.Core.run chunkCore ks.length ⟨s, ks⟩ = .next ⟨(deliverAll ks s).setSchedule ms, left⟩ ∧
      ((deliverAll ks s).dec.fault = .none → left = []) := by
  induction ks generalizing s with
  | nil =>
    refine ⟨[], ?_, fun _ => rfl⟩
    rw [← show s.schedule = ms from hs]
    rfl
  | cons k ks ih =>
    by_cases hf : s.dec.fault = .none
    · let o := s.setSchedule (List.replicate ks.length .decTurn ++ ms)
      have hstep : chunkStep ⟨s, k :: ks⟩ = .next (chunkDecTurn ⟨o, k :: ks⟩) := chunkStep_decTurn (k :: ks) hs
      rw [chunkDecTurn_of_canTake (s := o) hv hf] at hstep
      obtain ⟨left, hrun, hnone⟩ := ih (s := deliver k o) (by rw [deliver_chan]; exact hv) (deliver_schedule k o)
      have hall := deliverAll_setSchedule (k :: ks) s (List.replicate ks.length .decTurn ++ ms) ms
      refine ⟨left, ?_, fun h => hnone ?_⟩
      · rw [List.length_cons, chunkRun_succ _ hstep, ← hall]
        exact hrun
      · exact (congrArg (fun u : State => u.dec.fault) hall).trans h
    · refine ⟨k :: ks, ?_, fun h => ?_⟩
      · rw [run_chunkDecTurns_of_fault ms (k :: ks) _ hf hs, deliverAll_of_fault hf]
      · rw [deliverAll_of_fault hf] at h
        exact absurd h hf

/-! ## The direct machine -/

theorem directRun_succ {s t : State} (n : Nat) (h : directStep s = .next t) :
    Host.Core.run directCore (n + 1) s = Host.Core.run directCore n t := core_run_succ (M := directCore) (s := s) (t := t) n h

/-- The events of chunks that go straight to the run-length decoder: its own, then ENC's (rule R195). -/
def directEvents : List Chunk → State → List PortEvent
  | [], _ => []
  | c :: cs, s => frameEvents c s ++ takenEvents c ++ directEvents cs (deliver c s)

theorem directStep_encTurn {s : State} {ms : List Move} (h : s.schedule = .encTurn :: ms) :
    directStep s = directEncTurn (s.setSchedule ms) := directStep_scheduled h

/-- While a fault is held, turns of ENC wait before a chunk (log entry 23). -/
theorem run_directEncTurns_of_fault (ms : List Move) (n : Nat) {s : State} {e : Enc} {k : Chunk} (hf : s.dec.fault ≠ .none)
    (hn : encNext s = .next (s.setEnc e, some k)) (hs : s.schedule = List.replicate n .encTurn ++ ms) :
    Host.Core.run directCore n s = .next (s.setSchedule ms) := by
  induction n generalizing s with
  | zero =>
    rw [← show s.schedule = ms from hs]
    rfl
  | succ n ih =>
    let o := s.setSchedule (List.replicate n .encTurn ++ ms)
    have hn' : encNext o = .next (o.setEnc e, some k) := encNext_under o hn
    have hstep : directStep s = directEncTurn o := directStep_encTurn hs
    rw [directEncTurn_of_fault (s := o) hf hn'] at hstep
    rw [directRun_succ n hstep]
    exact ih (s := o) hf hn' rfl

/-- Turns of ENC straight into the run-length decoder, whose half `r` has: it gets where the chunks take it, and without a
fault the sending half gets to its end. -/
theorem run_directEncTurns {n : Nat} {s r : State} {cs : List Chunk} {e : Enc} (ms : List Move) (h : EncRuns n s cs e)
    (hp : s.params = r.params) (hd : s.dec = r.dec) (hs : s.schedule = List.replicate n .encTurn ++ ms) :
    ∃ d, Host.Core.run directCore n s = .next d ∧ d.dec = (deliverAll cs r).dec ∧
      (d.dec.fault = .none → d.enc = e ∧ d.events = s.events ++ directEvents cs r) := by
  induction n generalizing s r cs with
  | zero =>
    cases h
    exact ⟨s, rfl, hd, fun _ => ⟨rfl, (List.append_nil _).symm⟩⟩
  | succ n ih =>
    obtain _ | ⟨hnext, hrest⟩ := h
    rename_i e₁ c cs
    let o := s.setSchedule (List.replicate n .encTurn ++ ms)
    have hnext' : encNext o = .next (o.setEnc e₁, c) := encNext_under o hnext
    have hstep : directStep s = directEncTurn o := directStep_encTurn hs
    cases c with
    | none =>
      rw [directEncTurn_of_silent hnext'] at hstep
      rw [directRun_succ n hstep]
      exact ih (s := o.setEnc e₁) (hrest.of_same rfl rfl rfl) hp hd rfl
    | some c =>
      by_cases hf : s.dec.fault = .none
      · rw [directEncTurn_of_no_fault (s := o) hf hnext', chunkTaken_eq,
          deliver_of_same (s := r) (t := o.setEnc e₁) hp hd c] at hstep
        rw [directRun_succ n hstep]
        obtain ⟨d, hrun, hdec, hnone⟩ := ih (r := deliver c r)
          (s := { o.setEnc e₁ with dec := (deliver c r).dec, events := s.events ++ frameEvents c r ++ takenEvents c })
          (hrest.of_same rfl rfl rfl) (hp.trans (deliver_params c r).symm) rfl rfl
        refine ⟨d, hrun, hdec, fun hno => ?_⟩
        obtain ⟨henc, hev⟩ := hnone hno
        refine ⟨henc, hev.trans ?_⟩
        simp only [Option.toList_some, List.singleton_append, directEvents, List.append_assoc]
      · refine ⟨s.setSchedule ms, run_directEncTurns_of_fault ms (n + 1) hf hnext hs, ?_, fun hno => absurd hno hf⟩
        rw [deliverAll_of_fault (hd ▸ hf)]
        exact hd

/-- A payload raises no event, and `End` that raises no fault raises `frame_done` and then `enc_done` (rules R99, R114, R195). -/
theorem directEvents_payload {cs : List Chunk} (h : ∀ c, c ∈ cs → c ≠ .endMark) (s : State) :
    directEvents (cs ++ [.endMark]) s = frameEvents .endMark (deliverAll cs s) ++ [.encDone] := by
  induction cs generalizing s with
  | nil => simp [directEvents, takenEvents, deliverAll]
  | cons c cs ih =>
    have hc : c ≠ .endMark := h c List.mem_cons_self
    rw [List.cons_append, directEvents, ih (fun k hk => h k (List.mem_cons_of_mem c hk)), frameEvents, takenEvents, if_neg hc,
      if_neg (fun hend => hc hend.2.1), deliverAll_cons]
    rfl

theorem directEvents_encodeFrame {s : State} (h : (deliverAll (encodeFrame s).chunks s).dec.fault = .none) :
    directEvents (encodeFrame s).chunks s = [.frameDone, .encDone] := by
  obtain ⟨cs, hcs, hne, -⟩ := encodeFrame_eq s
  rw [hcs] at h ⊢
  rw [deliverAll_concat] at h
  rw [directEvents_payload hne, frameEvents_endMark h]
  rfl

/-! ## One frame in all three -/

/-- The start and the turns of one encode into the chunk channel, then the delivery of its chunks. -/
theorem run_chunkFrame {s : State} {e : Enc} (ms : List Move) (hb : s.enc.busy = false) (hr : s.chan.txReady = true)
    (hv : s.chan.rxValid = true) (hruns : EncRuns (s.params.encL + 2) (s.started []) (encodeFrame s).chunks e) :
    ∃ c, Host.Core.run chunkCore (s.params.encL + 3 + (encodeFrame s).chunks.length)
        ⟨s.setSchedule (.encStart :: (List.replicate (s.params.encL + 2) .encTurn ++
          (List.replicate (encodeFrame s).chunks.length .decTurn ++ ms))), []⟩ = .next c ∧
      c.sys.dec = (deliverAll (encodeFrame s).chunks s).dec ∧ c.sys.enc = e ∧
      c.sys.events = s.events ++ [.encDone] ++ frameEventsAll (encodeFrame s).chunks s ∧
      (c.sys.dec.fault = .none → c.chunks = []) := by
  let turns : List Move := List.replicate (encodeFrame s).chunks.length .decTurn ++ ms
  let t := s.started (List.replicate (s.params.encL + 2) .encTurn ++ turns)
  have hstart : chunkStep ⟨s.setSchedule (.encStart :: (List.replicate (s.params.encL + 2) .encTurn ++ turns)), []⟩ =
      .next ⟨t, []⟩ :=
    (chunkStep_scheduled (c := ⟨s.setSchedule _, []⟩) rfl).trans (onSys_of_next (makeMove_encStart_of_not_busy hb))
  have hencode := run_chunkEncTurns turns (s := t) (hruns.of_same rfl rfl rfl) hr rfl []
  rw [takenEvents_encodeFrame, List.nil_append] at hencode
  let u : State := { t with enc := e, events := s.events ++ [.encDone], schedule := turns }
  obtain ⟨left, hrun, hnone⟩ := run_chunkDecTurns ms (encodeFrame s).chunks (s := u) hv rfl
  rw [deliverAll_of_same (s := s) (t := u) rfl rfl] at hrun hnone
  let v : State :=
    { u with
      dec := (deliverAll (encodeFrame s).chunks s).dec
      events := u.events ++ frameEventsAll (encodeFrame s).chunks s
      schedule := ms }
  refine ⟨⟨v, left⟩, ?_, rfl, rfl, rfl, hnone⟩
  rw [core_run_add (M := chunkCore) _ _ ((chunkRun_succ _ hstart).trans hencode)]
  exact hrun

/-- The start and the turns of one encode straight into the run-length decoder. -/
theorem run_directFrame {s : State} {e : Enc} (ms : List Move) (hb : s.enc.busy = false)
    (hruns : EncRuns (s.params.encL + 2) (s.started []) (encodeFrame s).chunks e) :
    ∃ d, Host.Core.run directCore (s.params.encL + 3)
        (s.setSchedule (.encStart :: (List.replicate (s.params.encL + 2) .encTurn ++ ms))) = .next d ∧
      d.dec = (deliverAll (encodeFrame s).chunks s).dec ∧
      (d.dec.fault = .none → d.enc = e ∧ d.events = s.events ++ directEvents (encodeFrame s).chunks s) := by
  let t := s.started (List.replicate (s.params.encL + 2) .encTurn ++ ms)
  have hstart : directStep (s.setSchedule (.encStart :: (List.replicate (s.params.encL + 2) .encTurn ++ ms))) = .next t :=
    (directStep_scheduled (s := s.setSchedule _) rfl).trans (makeMove_encStart_of_not_busy hb)
  obtain ⟨d, hrun, hdec, hnone⟩ := run_directEncTurns (s := t) (r := s) ms (hruns.of_same rfl rfl rfl) rfl rfl rfl
  exact ⟨d, (directRun_succ _ hstart).trans hrun, hdec, hnone⟩

/-- Settles O45: in each machine the same turns emit the same chunks, and the receiving half gets where they take it. -/
theorem threeCompositionsAgree : Obligations.ThreeCompositionsAgree := by
  unfold Obligations.ThreeCompositionsAgree
  intro s ms hb hr hv encode bytes chunks
  obtain ⟨e, hruns, hleaves⟩ := encRuns_started hb.not_busy hb.encOk
  obtain ⟨des, left, hp, -, hnone, hwire⟩ := run_frame ms hb hr hv hruns
  obtain ⟨c, hchunk, hcdec, hcenc, hcev, hcnone⟩ := run_chunkFrame ms hb.not_busy hr hv hruns
  obtain ⟨d, hdirect, hddec, hdnone⟩ := run_directFrame ms hb.not_busy hruns
  have hdes := deliverAll_des (encodeFrame s).chunks s
  have htag : (deliverAll (encodeFrame s).chunks s).dec.fault ≠ .malformedTag :=
    deliverAll_ne_malformedTag _ (by simp [hb.no_fault])
  have htxb : readAll (s.afterFrame ms e des left) .txb = readAll (s.setEnc e) .txb :=
    List.map_congr_left fun i _ => memRead_txb_congr (s := s.setEnc e) rfl i
  refine ⟨s.afterFrame ms e des left, c, d, ?_, ?_, hdirect, hcdec, hddec.trans hcdec.symm, ?_, htag, fun hf => ?_⟩
  · rw [List.append_assoc]
    exact hwire
  · rw [List.append_assoc]
    exact hchunk
  · rw [hcdec, ← hdes]
    rfl
  · have hf' : (deliverAll (encodeFrame s).chunks s).dec.fault = .none := hf
    obtain ⟨hdenc, hdev⟩ := hdnone (hddec ▸ hf')
    rw [frameEventsAll_encodeFrame hf', List.append_assoc] at hcev
    rw [directEvents_encodeFrame hf'] at hdev
    refine ⟨hcenc.symm, hcenc.trans hdenc.symm, hleaves.busy, htxb.trans hleaves.readAll_txb, hleaves.first, hnone hf', hp,
      hcnone (hcdec ▸ hf'), ?_, hcev, hdev⟩
    rw [State.afterFrame, frameEventsAll_encodeFrame hf', List.append_assoc]
    rfl

end Sys2Proof.Machine
end
